-- ==== Sys2Proof/Word.lean ====
section
/-! DEFINITION. The one word of the machine: a byte of the stream (00_scope.md rule R10). Every offset is a natural
number and every jump target an integer (00_scope.md rule R9). -/

namespace Sys2Proof

/-- A byte; bit 0 is the least significant bit (00_scope.md rule R10). -/
abbrev Byte := BitVec 8

end Sys2Proof
end

