-- ==== Sys2Proof/Config.lean ====
section
/-! DEFINITION. The configuration record of the block (00_scope.md rule R7), the shape of the decode latches (10_state.md
rule R25), and the free values the latches hold between steps. The default values stand in Machine/Tables.lean. -/

namespace Sys2Proof

/-- The width of a jump's offset field: 1, 2 or 8 bytes (00_scope.md rules R7, R8(d)). -/
inductive JumpWidth where
  | one
  | two
  | eight
  deriving DecidableEq, Repr

/-- Whether an immediate-to-register opcode consumes a ModRM byte first (42_data_movement.md rule R147). -/
inductive ImmregModrm where
  | skip
  | consume
  deriving DecidableEq, Repr

/-- The parameters of 00_scope.md rule R7 but for N, which belongs to the stream. A partial map is a list of pairs, read
by its first pair with the key (notes/assumptions/10.md). -/
structure Configuration where
  sentinel    : Byte
  movSet      : List Byte
  fixedTable  : List (Byte × String)
  jumpWidth   : List (Byte × JumpWidth)
  immregModrm : ImmregModrm
  truncMsg    : String
  unresolved  : String
  movMnemonic : String
  deriving DecidableEq, Repr

/-- The decode latches (10_state.md rule R25), under the spec's names. -/
structure Latches where
  i      : Nat
  op     : BitVec 8
  p      : Nat
  modrm  : BitVec 8
  mod    : BitVec 2
  reg    : BitVec 3
  rm     : BitVec 3
  disp   : Int
  imm    : BitVec 8
  op1    : String
  op2    : String
  w      : Nat
  target : Int
  deriving DecidableEq, Repr, Inhabited

/-- The latches' values between steps, unspecified (10_state.md rule R25; notes/assumptions/1.md): a free value for each
draw, of which nothing is known. -/
opaque Config.freeLatches : Nat → Latches

end Sys2Proof
end

