-- ==== Sys2Proof/Syntax.lean ====
section
/-! DEFINITION. The syntax of what the decoder block decodes: one constructor of `Instr` per row of
spec/opcode_table.json, with the operand forms of 30_encoding.md rule R56, and the three constructors that only a
non-default configuration reaches (notes/assumptions/5.md). -/

namespace Sys2Proof

/-- The field of a data-movement instruction that the stream ends inside, or before (42_data_movement.md rule R174). -/
inductive TruncKind where
  | modrm
  | disp
  | imm
  deriving DecidableEq, Repr

/-- The operand that MOD and RM select, with the displacement they ask for (30_encoding.md rule R58). -/
inductive RmOperand where
  /-- MOD = 11: RM names a register (rule R142). -/
  | reg (rm : BitVec 3)
  /-- MOD = 00 and RM = 110: a 16-bit direct address (rule R143). -/
  | direct (address : BitVec 16)
  /-- MOD = 00 and RM other than 110: register-indirect (rule R144). -/
  | indirect (rm : BitVec 3)
  /-- MOD = 01: register-indirect with a signed 8-bit displacement (rule R145). -/
  | disp8 (rm : BitVec 3) (d : BitVec 8)
  /-- MOD = 10: register-indirect with a 16-bit displacement (rule R146). -/
  | disp16 (rm : BitVec 3) (d : BitVec 16)
  deriving DecidableEq, Repr

/-- A ModRM byte with its displacement, taken apart: the REG field and the operand of MOD and RM
(30_encoding.md rules R57, R58). -/
structure ModRm where
  reg : BitVec 3
  rm  : RmOperand
  deriving DecidableEq, Repr

/-- The offset field of a jump (43_jump.md rules R181, R182; 30_encoding.md formats JREL8, JREL16, JFAR8). -/
inductive JumpField where
  | rel8 (offset : BitVec 8)
  | rel16 (offset : BitVec 16)
  | far64 (offset : BitVec 64)
  /-- Fewer than the width's bytes follow the opcode: these are all of them, up to the end of the stream. -/
  | short (width : JumpWidth) (present : List Byte)
  deriving DecidableEq, Repr

/-- What follows the opcode byte of a data-movement instruction (30_encoding.md formats MOVRM, MOVIM, MOVIR). -/
inductive MovOperands where
  /-- MOVRM: a ModRM byte and its displacement. -/
  | modrm (m : ModRm)
  /-- MOVIM, and MOVIR under CONSUME: a ModRM byte, its displacement and an immediate byte. -/
  | modrmImm (m : ModRm) (imm : Byte)
  /-- MOVIR under SKIP: an immediate byte alone. -/
  | imm (imm : Byte)
  /-- The stream ends before `missing` is complete: `present` is all that follows the opcode. -/
  | truncated (missing : TruncKind) (present : List Byte)
  deriving DecidableEq, Repr

/-- One decoded stream position. -/
inductive Instr where
  /-- Row `(sentinel)`, 40_dispatch.md rule R83. -/
  | sentinel (op : Byte)
  /-- `PUSHF`, opcode 0x9C, 41_fixed_operand.md rule R100. -/
  | pushf
  /-- `POPF`, opcode 0x9D, 41_fixed_operand.md rule R101. -/
  | popf
  /-- `SAHF`, opcode 0x9E, 41_fixed_operand.md rule R102. -/
  | sahf
  /-- `LAHF`, opcode 0x9F, 41_fixed_operand.md rule R103. -/
  | lahf
  /-- `MOVSB`, opcode 0xA4, 41_fixed_operand.md rule R104. -/
  | movsb
  /-- `MOVSW`, opcode 0xA5, 41_fixed_operand.md rule R105. -/
  | movsw
  /-- `CMPSB`, opcode 0xA6, 41_fixed_operand.md rule R106. -/
  | cmpsb
  /-- `CMPSW`, opcode 0xA7, 41_fixed_operand.md rule R107. -/
  | cmpsw
  /-- `STOSB`, opcode 0xAA, 41_fixed_operand.md rule R108. -/
  | stosb
  /-- `STOSW`, opcode 0xAB, 41_fixed_operand.md rule R109. -/
  | stosw
  /-- `LODSB`, opcode 0xAC, 41_fixed_operand.md rule R110. -/
  | lodsb
  /-- `LODSW`, opcode 0xAD, 41_fixed_operand.md rule R111. -/
  | lodsw
  /-- `SCASB`, opcode 0xAE, 41_fixed_operand.md rule R112. -/
  | scasb
  /-- `SCASW`, opcode 0xAF, 41_fixed_operand.md rule R113. -/
  | scasw
  /-- `INT3`, opcode 0xCC, 41_fixed_operand.md rule R114. -/
  | int3
  /-- `INTO`, opcode 0xCE, 41_fixed_operand.md rule R115. -/
  | into
  /-- `IRET`, opcode 0xCF, 41_fixed_operand.md rule R116. -/
  | iret
  /-- `LOCK`, opcode 0xF0, 41_fixed_operand.md rule R117. -/
  | lock
  /-- `REPNE`, opcode 0xF2, 41_fixed_operand.md rule R118. -/
  | repne
  /-- `REP`, opcode 0xF3, 41_fixed_operand.md rule R119. -/
  | rep
  /-- `HLT`, opcode 0xF4, 41_fixed_operand.md rule R120. -/
  | hlt
  /-- `CMC`, opcode 0xF5, 41_fixed_operand.md rule R121. -/
  | cmc
  /-- `CLC`, opcode 0xF8, 41_fixed_operand.md rule R122. -/
  | clc
  /-- `STC`, opcode 0xF9, 41_fixed_operand.md rule R123. -/
  | stc
  /-- `CLI`, opcode 0xFA, 41_fixed_operand.md rule R124. -/
  | cli
  /-- `STI`, opcode 0xFB, 41_fixed_operand.md rule R125. -/
  | sti
  /-- `CLD`, opcode 0xFC, 41_fixed_operand.md rule R126. -/
  | cld
  /-- `STD`, opcode 0xFD, 41_fixed_operand.md rule R127. -/
  | std
  /-- `JO`, opcode 0x70, 43_jump.md rule R190. -/
  | jo (f : JumpField)
  /-- `JNO`, opcode 0x71, 43_jump.md rule R191. -/
  | jno (f : JumpField)
  /-- `JB`, opcode 0x72, 43_jump.md rule R192. -/
  | jb (f : JumpField)
  /-- `JAE`, opcode 0x73, 43_jump.md rule R193. -/
  | jae (f : JumpField)
  /-- `JE`, opcode 0x74, 43_jump.md rule R194. -/
  | je (f : JumpField)
  /-- `JNE`, opcode 0x75, 43_jump.md rule R195. -/
  | jne (f : JumpField)
  /-- `JBE`, opcode 0x76, 43_jump.md rule R196. -/
  | jbe (f : JumpField)
  /-- `JA`, opcode 0x77, 43_jump.md rule R197. -/
  | ja (f : JumpField)
  /-- `JS`, opcode 0x78, 43_jump.md rule R198. -/
  | js (f : JumpField)
  /-- `JNS`, opcode 0x79, 43_jump.md rule R199. -/
  | jns (f : JumpField)
  /-- `JP`, opcode 0x7A, 43_jump.md rule R200. -/
  | jp (f : JumpField)
  /-- `JNP`, opcode 0x7B, 43_jump.md rule R201. -/
  | jnp (f : JumpField)
  /-- `JL`, opcode 0x7C, 43_jump.md rule R202. -/
  | jl (f : JumpField)
  /-- `JGE`, opcode 0x7D, 43_jump.md rule R203. -/
  | jge (f : JumpField)
  /-- `JLE`, opcode 0x7E, 43_jump.md rule R204. -/
  | jle (f : JumpField)
  /-- `JG`, opcode 0x7F, 43_jump.md rule R205. -/
  | jg (f : JumpField)
  /-- `JMP SHORT`, opcode 0xEB, 43_jump.md rule R213. -/
  | jmpShort (f : JumpField)
  /-- `JMP`, opcode 0xE9, 43_jump.md rule R214. -/
  | jmp (f : JumpField)
  /-- `JMP FAR`, opcode 0xEA, 43_jump.md rule R215. -/
  | jmpFar (f : JumpField)
  /-- `MOV`, opcode 0x88, 42_data_movement.md rule R150. -/
  | mov88 (o : MovOperands)
  /-- `MOV`, opcode 0x89, 42_data_movement.md rule R151. -/
  | mov89 (o : MovOperands)
  /-- `MOV`, opcode 0x8A, 42_data_movement.md rule R152. -/
  | mov8A (o : MovOperands)
  /-- `MOV`, opcode 0x8B, 42_data_movement.md rule R153. -/
  | mov8B (o : MovOperands)
  /-- `MOV`, opcode 0xC6, 42_data_movement.md rule R154. -/
  | movC6 (o : MovOperands)
  /-- `MOV`, opcode 0xC7, 42_data_movement.md rule R155. -/
  | movC7 (o : MovOperands)
  /-- `MOV`, opcode 0xB0, 42_data_movement.md rule R156. -/
  | movB0 (o : MovOperands)
  /-- `MOV`, opcode 0xB1, 42_data_movement.md rule R157. -/
  | movB1 (o : MovOperands)
  /-- `MOV`, opcode 0xB2, 42_data_movement.md rule R158. -/
  | movB2 (o : MovOperands)
  /-- `MOV`, opcode 0xB3, 42_data_movement.md rule R159. -/
  | movB3 (o : MovOperands)
  /-- `MOV`, opcode 0xB4, 42_data_movement.md rule R160. -/
  | movB4 (o : MovOperands)
  /-- `MOV`, opcode 0xB5, 42_data_movement.md rule R161. -/
  | movB5 (o : MovOperands)
  /-- `MOV`, opcode 0xB6, 42_data_movement.md rule R162. -/
  | movB6 (o : MovOperands)
  /-- `MOV`, opcode 0xB7, 42_data_movement.md rule R163. -/
  | movB7 (o : MovOperands)
  /-- `MOV`, opcode 0xB8, 42_data_movement.md rule R164. -/
  | movB8 (o : MovOperands)
  /-- `MOV`, opcode 0xB9, 42_data_movement.md rule R165. -/
  | movB9 (o : MovOperands)
  /-- `MOV`, opcode 0xBA, 42_data_movement.md rule R166. -/
  | movBA (o : MovOperands)
  /-- `MOV`, opcode 0xBB, 42_data_movement.md rule R167. -/
  | movBB (o : MovOperands)
  /-- `MOV`, opcode 0xBC, 42_data_movement.md rule R168. -/
  | movBC (o : MovOperands)
  /-- `MOV`, opcode 0xBD, 42_data_movement.md rule R169. -/
  | movBD (o : MovOperands)
  /-- `MOV`, opcode 0xBE, 42_data_movement.md rule R170. -/
  | movBE (o : MovOperands)
  /-- `MOV`, opcode 0xBF, 42_data_movement.md rule R171. -/
  | movBF (o : MovOperands)
  /-- Row `(unrecognized)`, 40_dispatch.md rule R86. -/
  | unrecognized (op : Byte)
  /-- A fixed-operand opcode that a non-default FIXED_TABLE adds (40_dispatch.md rule R84; 41_fixed_operand.md rule R128). -/
  | fixedOp (op : Byte)
  /-- A jump opcode that a non-default JUMP_WIDTH adds (40_dispatch.md rule R85; 43_jump.md rule R181). -/
  | jumpOp (op : Byte) (f : JumpField)
  /-- A data-movement opcode that a non-default MOV_SET adds (40_dispatch.md rule R87; 42_data_movement.md rule R172). -/
  | movOp (op : Byte) (o : MovOperands)
  deriving DecidableEq, Repr

end Sys2Proof
end

