-- ==== Sys2Proof/Machine/Tables.lean ====
section
/-! DEFINITION. The constant tables of the block and the default configuration (00_scope.md rule R7; 10_state.md rules
R27 to R29), and the bit fields and sizes that the encoding tables name (30_encoding.md rules R57, R58). -/

namespace Sys2Proof

/-- The register table (10_state.md rule R27), read by `regName`. -/
def registerTable : List String := ["AX", "CX", "DX", "BX", "SP", "BP", "SI", "DI"]

/-- The base expressions of the three memory RM tables (10_state.md rule R28, decision D9), read by `rmBase`. -/
def rmTable : List String := ["BX+SI", "BX+DI", "BP+SI", "BP+DI", "SI", "DI", "BP", "BX"]

/-- The 28 non-jump entries of the default FIXED_TABLE (41_fixed_operand.md rules R100 to R128, decision D6). -/
def fixedMnemonics : List (Byte × String) :=
  [(0x9C#8, "PUSHF"), (0x9D#8, "POPF"), (0x9E#8, "SAHF"), (0x9F#8, "LAHF"),
   (0xA4#8, "MOVSB"), (0xA5#8, "MOVSW"), (0xA6#8, "CMPSB"), (0xA7#8, "CMPSW")] ++
  [(0xAA#8, "STOSB"), (0xAB#8, "STOSW"), (0xAC#8, "LODSB"), (0xAD#8, "LODSW"),
   (0xAE#8, "SCASB"), (0xAF#8, "SCASW"), (0xCC#8, "INT3"), (0xCE#8, "INTO")] ++
  [(0xCF#8, "IRET"), (0xF0#8, "LOCK"), (0xF2#8, "REPNE"), (0xF3#8, "REP"),
   (0xF4#8, "HLT"), (0xF5#8, "CMC"), (0xF8#8, "CLC"), (0xF9#8, "STC")] ++
  [(0xFA#8, "CLI"), (0xFB#8, "STI"), (0xFC#8, "CLD"), (0xFD#8, "STD")]

/-- The 19 jump entries of the default FIXED_TABLE (43_jump.md rule R188, decision D7). -/
def jumpMnemonics : List (Byte × String) :=
  [(0x70#8, "JO"), (0x71#8, "JNO"), (0x72#8, "JB"), (0x73#8, "JAE"),
   (0x74#8, "JE"), (0x75#8, "JNE"), (0x76#8, "JBE"), (0x77#8, "JA")] ++
  [(0x78#8, "JS"), (0x79#8, "JNS"), (0x7A#8, "JP"), (0x7B#8, "JNP"),
   (0x7C#8, "JL"), (0x7D#8, "JGE"), (0x7E#8, "JLE"), (0x7F#8, "JG")] ++
  [(0xEB#8, "JMP SHORT"), (0xE9#8, "JMP"), (0xEA#8, "JMP FAR")]

/-- The default JUMP_WIDTH (43_jump.md rules R186 to R188, decision D7). -/
def defaultJumpWidth : List (Byte × JumpWidth) :=
  [(0x70#8, .one), (0x71#8, .one), (0x72#8, .one), (0x73#8, .one),
   (0x74#8, .one), (0x75#8, .one), (0x76#8, .one), (0x77#8, .one)] ++
  [(0x78#8, .one), (0x79#8, .one), (0x7A#8, .one), (0x7B#8, .one),
   (0x7C#8, .one), (0x7D#8, .one), (0x7E#8, .one), (0x7F#8, .one)] ++
  [(0xEB#8, .one), (0xE9#8, .two), (0xEA#8, .eight)]

/-- The default MOV_SET (42_data_movement.md rule R172, decision D4). -/
def defaultMovSet : List Byte :=
  [0x88#8, 0x89#8, 0x8A#8, 0x8B#8, 0xC6#8, 0xC7#8, 0xB0#8, 0xB1#8] ++
  [0xB2#8, 0xB3#8, 0xB4#8, 0xB5#8, 0xB6#8, 0xB7#8, 0xB8#8, 0xB9#8] ++
  [0xBA#8, 0xBB#8, 0xBC#8, 0xBD#8, 0xBE#8, 0xBF#8]

/-- The default configuration (00_scope.md rule R7). -/
def defaultConfiguration : Configuration :=
  { sentinel := 0x00
    movSet := defaultMovSet
    fixedTable := fixedMnemonics ++ jumpMnemonics
    jumpWidth := defaultJumpWidth
    immregModrm := .skip
    truncMsg := "Error: instruction truncated at end of stream."
    unresolved := "??"
    movMnemonic := "MOV" }

/-- The opcode bytes of the fixed-operand rows of spec/opcode_table.json. -/
def fixedOpcodes : List Byte := fixedMnemonics.map (·.1)

/-- The opcode bytes of the jump rows. -/
def jumpOpcodes : List Byte := jumpMnemonics.map (·.1)

/-- The opcode bytes of the data-movement rows. -/
def movOpcodes : List Byte := defaultMovSet

/-- The number of bytes of an offset field (43_jump.md rules R181, R186, R187). -/
def JumpWidth.bytes : JumpWidth → Nat
  | .one => 1
  | .two => 2
  | .eight => 8

/-- The width of an offset field, present or not. -/
def JumpField.width : JumpField → JumpWidth
  | .rel8 _ => .one
  | .rel16 _ => .two
  | .far64 _ => .eight
  | .short w _ => w

/-- MOD, bits 7 and 6 of a ModRM byte (30_encoding.md rule R57). -/
def modField (m : Byte) : BitVec 2 := m.extractLsb' 6 2

/-- REG, bits 5 to 3 of a ModRM byte (30_encoding.md rule R57). -/
def regField (m : Byte) : BitVec 3 := m.extractLsb' 3 3

/-- RM, bits 2 to 0 of a ModRM byte; the same bits of an opcode select its register (30_encoding.md rules R57, R63). -/
def rmField (m : Byte) : BitVec 3 := m.extractLsb' 0 3

/-- The number of displacement bytes a ModRM byte asks for (30_encoding.md rule R58). -/
def dispSize (m : Byte) : Nat :=
  if modField m = 0#2 then (if rmField m = 6#3 then 2 else 0)
  else if modField m = 1#2 then 1
  else if modField m = 2#2 then 2
  else 0

/-- The immediate-to-register range 0xB0 to 0xBF (42_data_movement.md rule R147). -/
def isImmReg (op : Byte) : Bool := decide (0xB0 ≤ op.toNat) && decide (op.toNat ≤ 0xBF)

/-- The two immediate-to-memory opcodes (42_data_movement.md rules R154, R155). -/
def isImmMem (op : Byte) : Bool := op == 0xC6#8 || op == 0xC7#8

end Sys2Proof
end

