-- ==== Sys2Proof/WellFormed.lean ====
section
/-! DEFINITION. Which configurations (00_scope.md rule R8) and which instructions are well formed, as decidable checks.
The instruction checks are written from the encoding tables of 30_encoding.md, not from the decoder. -/

namespace Sys2Proof

/-- 00_scope.md rule R8: (a) every jump key is a fixed-table key, (b) the sentinel is in no table, (c) the fixed table
and the data-movement set share no byte; (d), every width is 1, 2 or 8, is the type `JumpWidth`. -/
def Configuration.wellFormed (c : Configuration) : Bool :=
  c.jumpWidth.all (fun row => (c.fixedTable.lookup row.1).isSome)
    && (c.fixedTable.lookup c.sentinel).isNone && !c.movSet.contains c.sentinel
    && c.movSet.all (fun op => (c.fixedTable.lookup op).isNone)

/-- MOD = 00 with RM = 110 is the direct address, so it is no register-indirect form (30_encoding.md rule R58). -/
def RmOperand.wellFormed : RmOperand → Bool
  | .indirect rm => rm != 6#3
  | _ => true

/-- A short field has fewer bytes than the width (43_jump.md rule R182). -/
def JumpField.wellFormed : JumpField → Bool
  | .short w present => decide (present.length < w.bytes)
  | _ => true

/-- Whether the opcode's format begins with a ModRM byte (30_encoding.md rule R56). -/
def readsModRm (mode : ImmregModrm) (op : Byte) : Bool := !(isImmReg op && mode == .skip)

/-- Whether the operands are those of the opcode's format, complete or ending at the first missing field
(30_encoding.md rule R56; 42_data_movement.md rules R147, R174). -/
def MovOperands.wellFormed (mode : ImmregModrm) (op : Byte) : MovOperands → Bool
  | .modrm m => readsModRm mode op && !isImmReg op && !isImmMem op && m.rm.wellFormed
  | .modrmImm m _ => readsModRm mode op && (isImmReg op || isImmMem op) && m.rm.wellFormed
  | .imm _ => !readsModRm mode op
  | .truncated .modrm present => readsModRm mode op && present.isEmpty
  | .truncated .disp [] => false
  | .truncated .disp (m :: more) => readsModRm mode op && decide (more.length < dispSize m)
  | .truncated .imm [] => !readsModRm mode op
  | .truncated .imm (m :: more) =>
    readsModRm mode op && (isImmReg op || isImmMem op) && decide (more.length = dispSize m)

/-- The configuration classifies the byte as a fixed-operand opcode (40_dispatch.md rule R82). -/
def isFixedOpcode (cfg : Configuration) (op : Byte) : Bool :=
  op != cfg.sentinel && (cfg.fixedTable.lookup op).isSome && (cfg.jumpWidth.lookup op).isNone

/-- The configuration classifies the byte as a jump opcode of this width. -/
def isJumpOpcode (cfg : Configuration) (op : Byte) (w : JumpWidth) : Bool :=
  op != cfg.sentinel && (cfg.fixedTable.lookup op).isSome && cfg.jumpWidth.lookup op == some w

/-- The configuration classifies the byte as a data-movement opcode. -/
def isMovOpcode (cfg : Configuration) (op : Byte) : Bool :=
  op != cfg.sentinel && (cfg.fixedTable.lookup op).isNone && cfg.movSet.contains op

/-- The configuration classifies the byte as unrecognized. -/
def isUnrecognizedOpcode (cfg : Configuration) (op : Byte) : Bool :=
  op != cfg.sentinel && (cfg.fixedTable.lookup op).isNone && !cfg.movSet.contains op

/-- A jump opcode with an offset field of its width. -/
def jumpWellFormed (cfg : Configuration) (op : Byte) (f : JumpField) : Bool :=
  isJumpOpcode cfg op f.width && f.wellFormed

/-- A data-movement opcode with the operands of its format. -/
def movWellFormed (cfg : Configuration) (op : Byte) (o : MovOperands) : Bool :=
  isMovOpcode cfg op && o.wellFormed cfg.immregModrm op

/-- Whether an instruction is one of the configuration's. -/
def Instr.wellFormed (cfg : Configuration) : Instr → Bool
  | .sentinel op => op == cfg.sentinel
  | .pushf => isFixedOpcode cfg 0x9C
  | .popf => isFixedOpcode cfg 0x9D
  | .sahf => isFixedOpcode cfg 0x9E
  | .lahf => isFixedOpcode cfg 0x9F
  | .movsb => isFixedOpcode cfg 0xA4
  | .movsw => isFixedOpcode cfg 0xA5
  | .cmpsb => isFixedOpcode cfg 0xA6
  | .cmpsw => isFixedOpcode cfg 0xA7
  | .stosb => isFixedOpcode cfg 0xAA
  | .stosw => isFixedOpcode cfg 0xAB
  | .lodsb => isFixedOpcode cfg 0xAC
  | .lodsw => isFixedOpcode cfg 0xAD
  | .scasb => isFixedOpcode cfg 0xAE
  | .scasw => isFixedOpcode cfg 0xAF
  | .int3 => isFixedOpcode cfg 0xCC
  | .into => isFixedOpcode cfg 0xCE
  | .iret => isFixedOpcode cfg 0xCF
  | .lock => isFixedOpcode cfg 0xF0
  | .repne => isFixedOpcode cfg 0xF2
  | .rep => isFixedOpcode cfg 0xF3
  | .hlt => isFixedOpcode cfg 0xF4
  | .cmc => isFixedOpcode cfg 0xF5
  | .clc => isFixedOpcode cfg 0xF8
  | .stc => isFixedOpcode cfg 0xF9
  | .cli => isFixedOpcode cfg 0xFA
  | .sti => isFixedOpcode cfg 0xFB
  | .cld => isFixedOpcode cfg 0xFC
  | .std => isFixedOpcode cfg 0xFD
  | .jo f => jumpWellFormed cfg 0x70 f
  | .jno f => jumpWellFormed cfg 0x71 f
  | .jb f => jumpWellFormed cfg 0x72 f
  | .jae f => jumpWellFormed cfg 0x73 f
  | .je f => jumpWellFormed cfg 0x74 f
  | .jne f => jumpWellFormed cfg 0x75 f
  | .jbe f => jumpWellFormed cfg 0x76 f
  | .ja f => jumpWellFormed cfg 0x77 f
  | .js f => jumpWellFormed cfg 0x78 f
  | .jns f => jumpWellFormed cfg 0x79 f
  | .jp f => jumpWellFormed cfg 0x7A f
  | .jnp f => jumpWellFormed cfg 0x7B f
  | .jl f => jumpWellFormed cfg 0x7C f
  | .jge f => jumpWellFormed cfg 0x7D f
  | .jle f => jumpWellFormed cfg 0x7E f
  | .jg f => jumpWellFormed cfg 0x7F f
  | .jmpShort f => jumpWellFormed cfg 0xEB f
  | .jmp f => jumpWellFormed cfg 0xE9 f
  | .jmpFar f => jumpWellFormed cfg 0xEA f
  | .mov88 o => movWellFormed cfg 0x88 o
  | .mov89 o => movWellFormed cfg 0x89 o
  | .mov8A o => movWellFormed cfg 0x8A o
  | .mov8B o => movWellFormed cfg 0x8B o
  | .movC6 o => movWellFormed cfg 0xC6 o
  | .movC7 o => movWellFormed cfg 0xC7 o
  | .movB0 o => movWellFormed cfg 0xB0 o
  | .movB1 o => movWellFormed cfg 0xB1 o
  | .movB2 o => movWellFormed cfg 0xB2 o
  | .movB3 o => movWellFormed cfg 0xB3 o
  | .movB4 o => movWellFormed cfg 0xB4 o
  | .movB5 o => movWellFormed cfg 0xB5 o
  | .movB6 o => movWellFormed cfg 0xB6 o
  | .movB7 o => movWellFormed cfg 0xB7 o
  | .movB8 o => movWellFormed cfg 0xB8 o
  | .movB9 o => movWellFormed cfg 0xB9 o
  | .movBA o => movWellFormed cfg 0xBA o
  | .movBB o => movWellFormed cfg 0xBB o
  | .movBC o => movWellFormed cfg 0xBC o
  | .movBD o => movWellFormed cfg 0xBD o
  | .movBE o => movWellFormed cfg 0xBE o
  | .movBF o => movWellFormed cfg 0xBF o
  | .unrecognized op => isUnrecognizedOpcode cfg op
  | .fixedOp op => isFixedOpcode cfg op && !fixedOpcodes.contains op
  | .jumpOp op f => jumpWellFormed cfg op f && !jumpOpcodes.contains op
  | .movOp op o => movWellFormed cfg op o && !movOpcodes.contains op

/-- The offset field is all there. -/
def JumpField.complete : JumpField → Bool
  | .short _ _ => false
  | _ => true

/-- The operands are all there. -/
def MovOperands.complete : MovOperands → Bool
  | .truncated _ _ => false
  | _ => true

/-- The instruction is all there: neither a soft-failing jump (43_jump.md rule R182) nor a truncated data movement
(60_exceptions.md rule R221), which stand only at the end of a stream. -/
def Instr.complete : Instr → Bool
  | .jo f | .jno f | .jb f | .jae f | .je f | .jne f | .jbe f | .ja f | .js f | .jns f | .jp f | .jnp f
  | .jl f | .jge f | .jle f | .jg f | .jmpShort f | .jmp f | .jmpFar f => f.complete
  | .jumpOp _ f => f.complete
  | .mov88 o | .mov89 o | .mov8A o | .mov8B o | .movC6 o | .movC7 o | .movB0 o | .movB1 o | .movB2 o
  | .movB3 o | .movB4 o | .movB5 o | .movB6 o | .movB7 o | .movB8 o | .movB9 o | .movBA o | .movBB o
  | .movBC o | .movBD o | .movBE o | .movBF o => o.complete
  | .movOp _ o => o.complete
  | .pushf | .popf | .sahf | .lahf | .movsb | .movsw | .cmpsb | .cmpsw | .stosb | .stosw | .lodsb | .lodsw
  | .scasb | .scasw | .int3 | .into | .iret | .lock | .repne | .rep | .hlt | .cmc | .clc | .stc | .cli | .sti
  | .cld | .std => true
  | .sentinel _ | .unrecognized _ | .fixedOp _ => true

end Sys2Proof
end

