-- ==== Sys2Proof/Decode.lean ====
section
/-! DEFINITION. From bytes to instructions, total on every list of bytes, and back. `decode` is given the stream from
the cursor on (all of it, or at least its next nine bytes, 30_encoding.md rule R55). The encoder stands after it. -/

namespace Sys2Proof

/-- The tagged variant of 40_dispatch.md rule R82. -/
inductive OpClass where
  | sentinel
  | jump (mnemonic : String) (width : JumpWidth)
  | fixed (mnemonic : String)
  | dataMovement
  | unrecognized
  deriving DecidableEq, Repr

/-- Classification, first match wins (40_dispatch.md rules R82, R88). A key of JUMP_WIDTH that is no key of FIXED_TABLE
is not a jump. -/
def classify (cfg : Configuration) (op : Byte) : OpClass :=
  if op = cfg.sentinel then .sentinel
  else
    match cfg.fixedTable.lookup op with
    | some mn =>
      match cfg.jumpWidth.lookup op with
      | some w => .jump mn w
      | none => .fixed mn
    | none => if op ∈ cfg.movSet then .dataMovement else .unrecognized

/-- `LE`, the unsigned little-endian integer of consecutive bytes (20_memory.md rule R44). -/
def leNat : List Byte → Nat
  | [] => 0
  | b :: bs => b.toNat + 256 * leNat bs

/-- The `w` bytes of a number, low byte at the lower offset (20_memory.md rule R44). -/
def leBytes : Nat → Nat → List Byte
  | 0, _ => []
  | w + 1, n => BitVec.ofNat 8 n :: leBytes w (n / 256)

/-- The offset field after a jump opcode, or its shortfall (43_jump.md rules R181, R182). -/
def parseJump (w : JumpWidth) (rest : List Byte) : JumpField :=
  if rest.length < w.bytes then .short w rest
  else
    match w with
    | .one => .rel8 (BitVec.ofNat 8 (leNat (rest.take 1)))
    | .two => .rel16 (BitVec.ofNat 16 (leNat (rest.take 2)))
    | .eight => .far64 (BitVec.ofNat 64 (leNat (rest.take 8)))

/-- A ModRM byte and the displacement bytes it asks for, taken apart (30_encoding.md rules R57, R58, R61). -/
def parseModRm (m : Byte) (disp : List Byte) : ModRm :=
  { reg := regField m
    rm :=
      if modField m = 3#2 then .reg (rmField m)
      else if modField m = 0#2 then
        (if rmField m = 6#3 then .direct (BitVec.ofNat 16 (leNat disp)) else .indirect (rmField m))
      else if modField m = 1#2 then .disp8 (rmField m) (BitVec.ofNat 8 (leNat disp))
      else .disp16 (rmField m) (BitVec.ofNat 16 (leNat disp)) }

/-- What follows a data-movement opcode, read in stream order: ModRM, displacement, immediate
(42_data_movement.md rules R147, R148, R174). -/
def parseMov (mode : ImmregModrm) (op : Byte) (rest : List Byte) : MovOperands :=
  if isImmReg op ∧ mode = .skip then
    match rest with
    | [] => .truncated .imm []
    | imm :: _ => .imm imm
  else
    match rest with
    | [] => .truncated .modrm []
    | m :: more =>
      if more.length < dispSize m then .truncated .disp rest
      else if isImmReg op ∨ isImmMem op then
        match more.drop (dispSize m) with
        | [] => .truncated .imm rest
        | imm :: _ => .modrmImm (parseModRm m (more.take (dispSize m))) imm
      else .modrm (parseModRm m (more.take (dispSize m)))

/-- The fixed-operand rows of spec/opcode_table.json (41_fixed_operand.md rules R100 to R127). -/
def fixedRows : List (Byte × Instr) :=
  [(0x9C#8, .pushf), (0x9D#8, .popf), (0x9E#8, .sahf), (0x9F#8, .lahf),
   (0xA4#8, .movsb), (0xA5#8, .movsw), (0xA6#8, .cmpsb), (0xA7#8, .cmpsw)] ++
  [(0xAA#8, .stosb), (0xAB#8, .stosw), (0xAC#8, .lodsb), (0xAD#8, .lodsw),
   (0xAE#8, .scasb), (0xAF#8, .scasw), (0xCC#8, .int3), (0xCE#8, .into)] ++
  [(0xCF#8, .iret), (0xF0#8, .lock), (0xF2#8, .repne), (0xF3#8, .rep),
   (0xF4#8, .hlt), (0xF5#8, .cmc), (0xF8#8, .clc), (0xF9#8, .stc)] ++
  [(0xFA#8, .cli), (0xFB#8, .sti), (0xFC#8, .cld), (0xFD#8, .std)]

/-- The jump rows of spec/opcode_table.json (43_jump.md rules R190 to R205, R213 to R215). -/
def jumpRows : List (Byte × (JumpField → Instr)) :=
  [(0x70#8, .jo), (0x71#8, .jno), (0x72#8, .jb), (0x73#8, .jae),
   (0x74#8, .je), (0x75#8, .jne), (0x76#8, .jbe), (0x77#8, .ja)] ++
  [(0x78#8, .js), (0x79#8, .jns), (0x7A#8, .jp), (0x7B#8, .jnp),
   (0x7C#8, .jl), (0x7D#8, .jge), (0x7E#8, .jle), (0x7F#8, .jg)] ++
  [(0xEB#8, .jmpShort), (0xE9#8, .jmp), (0xEA#8, .jmpFar)]

/-- The data-movement rows of spec/opcode_table.json (42_data_movement.md rules R150 to R171). -/
def movRows : List (Byte × (MovOperands → Instr)) :=
  [(0x88#8, .mov88), (0x89#8, .mov89), (0x8A#8, .mov8A), (0x8B#8, .mov8B),
   (0xC6#8, .movC6), (0xC7#8, .movC7), (0xB0#8, .movB0), (0xB1#8, .movB1)] ++
  [(0xB2#8, .movB2), (0xB3#8, .movB3), (0xB4#8, .movB4), (0xB5#8, .movB5),
   (0xB6#8, .movB6), (0xB7#8, .movB7), (0xB8#8, .movB8), (0xB9#8, .movB9)] ++
  [(0xBA#8, .movBA), (0xBB#8, .movBB), (0xBC#8, .movBC), (0xBD#8, .movBD),
   (0xBE#8, .movBE), (0xBF#8, .movBF)]

/-- The fixed-operand instruction of an opcode: the table's row, or the generic one. -/
def fixedInstr (op : Byte) : Instr := (fixedRows.lookup op).getD (.fixedOp op)

/-- The jump instruction of an opcode and its offset field. -/
def jumpInstr (op : Byte) (f : JumpField) : Instr := (jumpRows.lookup op).getD (.jumpOp op) f

/-- The data-movement instruction of an opcode and what follows it. -/
def movInstr (op : Byte) (o : MovOperands) : Instr := (movRows.lookup op).getD (.movOp op) o

/-- Why `decode` gives no instruction. No byte value is illegal (30_encoding.md rule R65), so one reason is left. -/
inductive DecodeError where
  /-- There is no opcode byte (40_dispatch.md rule R89). -/
  | noOpcodeByte
  deriving DecidableEq, Repr

/-- The instruction of an opcode byte and the bytes after it: classify, then read the operand bytes of the format
(40_dispatch.md rule R81; 30_encoding.md rules R56, R64). -/
def decodeOpcode (cfg : Configuration) (op : Byte) (rest : List Byte) : Instr :=
  match classify cfg op with
  | .sentinel => .sentinel op
  | .jump _ w => jumpInstr op (parseJump w rest)
  | .fixed _ => fixedInstr op
  | .dataMovement => movInstr op (parseMov cfg.immregModrm op rest)
  | .unrecognized => .unrecognized op

/-- The decoder. -/
def decode (cfg : Configuration) : List Byte → Except DecodeError Instr
  | [] => .error .noOpcodeByte
  | op :: rest => .ok (decodeOpcode cfg op rest)

/-- The number of bytes of the longest instruction (30_encoding.md rule R55). -/
def maxInstrBytes : Nat := 9

/-- The bytes of a table word: bit 0 of `w` is bit 0 of the first byte, and every bit from `nbits` on is 0. -/
def tableBytes (nbits w : Nat) : List Byte := leBytes maxInstrBytes (w % 2 ^ nbits)

/-- What the decoder reads, under the default configuration, from an instruction whose bits are `w`. -/
def decodeTableWord (nbits w : Nat) : Option Instr :=
  match decode defaultConfiguration (tableBytes nbits w) with
  | .ok i => some i
  | .error _ => none

/-- The opcode byte of each instruction (spec/opcode_table.json). -/
def Instr.opcode : Instr → Byte
  | .sentinel op => op
  | .pushf => 0x9C
  | .popf => 0x9D
  | .sahf => 0x9E
  | .lahf => 0x9F
  | .movsb => 0xA4
  | .movsw => 0xA5
  | .cmpsb => 0xA6
  | .cmpsw => 0xA7
  | .stosb => 0xAA
  | .stosw => 0xAB
  | .lodsb => 0xAC
  | .lodsw => 0xAD
  | .scasb => 0xAE
  | .scasw => 0xAF
  | .int3 => 0xCC
  | .into => 0xCE
  | .iret => 0xCF
  | .lock => 0xF0
  | .repne => 0xF2
  | .rep => 0xF3
  | .hlt => 0xF4
  | .cmc => 0xF5
  | .clc => 0xF8
  | .stc => 0xF9
  | .cli => 0xFA
  | .sti => 0xFB
  | .cld => 0xFC
  | .std => 0xFD
  | .jo _ => 0x70
  | .jno _ => 0x71
  | .jb _ => 0x72
  | .jae _ => 0x73
  | .je _ => 0x74
  | .jne _ => 0x75
  | .jbe _ => 0x76
  | .ja _ => 0x77
  | .js _ => 0x78
  | .jns _ => 0x79
  | .jp _ => 0x7A
  | .jnp _ => 0x7B
  | .jl _ => 0x7C
  | .jge _ => 0x7D
  | .jle _ => 0x7E
  | .jg _ => 0x7F
  | .jmpShort _ => 0xEB
  | .jmp _ => 0xE9
  | .jmpFar _ => 0xEA
  | .mov88 _ => 0x88
  | .mov89 _ => 0x89
  | .mov8A _ => 0x8A
  | .mov8B _ => 0x8B
  | .movC6 _ => 0xC6
  | .movC7 _ => 0xC7
  | .movB0 _ => 0xB0
  | .movB1 _ => 0xB1
  | .movB2 _ => 0xB2
  | .movB3 _ => 0xB3
  | .movB4 _ => 0xB4
  | .movB5 _ => 0xB5
  | .movB6 _ => 0xB6
  | .movB7 _ => 0xB7
  | .movB8 _ => 0xB8
  | .movB9 _ => 0xB9
  | .movBA _ => 0xBA
  | .movBB _ => 0xBB
  | .movBC _ => 0xBC
  | .movBD _ => 0xBD
  | .movBE _ => 0xBE
  | .movBF _ => 0xBF
  | .unrecognized op => op
  | .fixedOp op => op
  | .jumpOp op _ => op
  | .movOp op _ => op

/-- The ModRM byte: MOD in bits 7 and 6, REG in bits 5 to 3, RM in bits 2 to 0 (30_encoding.md rule R57). -/
def modrmByte (mod : BitVec 2) (reg rm : BitVec 3) : Byte := mod ++ reg ++ rm

/-- The ModRM byte and displacement bytes of a ModRM operand (30_encoding.md rules R57, R58). -/
def ModRm.bytes (m : ModRm) : List Byte :=
  match m.rm with
  | .reg rm => [modrmByte 3#2 m.reg rm]
  | .direct a => modrmByte 0#2 m.reg 6#3 :: leBytes 2 a.toNat
  | .indirect rm => [modrmByte 0#2 m.reg rm]
  | .disp8 rm d => [modrmByte 1#2 m.reg rm, d]
  | .disp16 rm d => modrmByte 2#2 m.reg rm :: leBytes 2 d.toNat

/-- The bytes of an offset field (30_encoding.md rule R62). -/
def JumpField.encoding : JumpField → List Byte
  | .rel8 b => [b]
  | .rel16 h => leBytes 2 h.toNat
  | .far64 q => leBytes 8 q.toNat
  | .short _ present => present

/-- The bytes after a data-movement opcode (30_encoding.md rule R56). -/
def MovOperands.encoding : MovOperands → List Byte
  | .modrm m => m.bytes
  | .modrmImm m b => m.bytes ++ [b]
  | .imm b => [b]
  | .truncated _ present => present

/-- The bytes after the opcode byte. -/
def Instr.operandBytes : Instr → List Byte
  | .jo f | .jno f | .jb f | .jae f | .je f | .jne f | .jbe f | .ja f | .js f | .jns f | .jp f | .jnp f
  | .jl f | .jge f | .jle f | .jg f | .jmpShort f | .jmp f | .jmpFar f => f.encoding
  | .jumpOp _ f => f.encoding
  | .mov88 o | .mov89 o | .mov8A o | .mov8B o | .movC6 o | .movC7 o | .movB0 o | .movB1 o | .movB2 o
  | .movB3 o | .movB4 o | .movB5 o | .movB6 o | .movB7 o | .movB8 o | .movB9 o | .movBA o | .movBB o
  | .movBC o | .movBD o | .movBE o | .movBF o => o.encoding
  | .movOp _ o => o.encoding
  | .pushf | .popf | .sahf | .lahf | .movsb | .movsw | .cmpsb | .cmpsw | .stosb | .stosw | .lodsb | .lodsw
  | .scasb | .scasw | .int3 | .into | .iret | .lock | .repne | .rep | .hlt | .cmc | .clc | .stc | .cli | .sti
  | .cld | .std => []
  | .sentinel _ | .unrecognized _ | .fixedOp _ => []

/-- The encoder: the bytes of an instruction, in stream order. -/
def encode (i : Instr) : List Byte := i.opcode :: i.operandBytes

/-- The length function of 30_encoding.md rule R59: bytes consumed, from the opcode byte and (for the ModRM formats)
the ModRM byte alone. -/
def lengthFromOpcode (cfg : Configuration) (op modrm : Byte) : Nat :=
  match classify cfg op with
  | .sentinel | .fixed _ | .unrecognized => 1
  | .jump _ w => 1 + w.bytes
  | .dataMovement =>
    if isImmReg op ∧ cfg.immregModrm = .skip then 2
    else 2 + dispSize modrm + (if isImmReg op ∨ isImmMem op then 1 else 0)

end Sys2Proof
end

