-- ==== Sys2Proof/Machine/State.lean ====
section
/-! DEFINITION. The state of the block (10_state.md rule R20) as plain data, with the parameters that no step writes
(the stream and the configuration), the reasons a step can stop, and the state after reset. -/

namespace Sys2Proof.Machine

/-- The control state (10_state.md rule R32). -/
inductive Fsm where
  | scanning
  /-- Held only inside a step; no state between steps shows it (rule R32). -/
  | decodingOperand
  | halted
  deriving DecidableEq, Repr

/-- The halt cause (10_state.md rule R23). -/
inductive Cause where
  | none
  | exhausted
  | truncModrm
  | truncDisp
  | truncImm
  deriving DecidableEq, Repr

/-- An output record (40_dispatch.md rule R90). -/
inductive Record where
  | line (offset : Nat) (mnemonic : String) (operands : Option (String × String))
  | diagnostic
  deriving DecidableEq, Repr

/-- The stream (20_memory.md rule R40): positions 0 to `length` - 1, of which `cells` lists those whose byte is not the
one an unlisted position reads as, by rising address (`Memory.wf`). -/
structure Memory where
  length : Nat
  cells  : List Host.Cell
  deriving DecidableEq, Repr

/-- The machine. -/
structure State where
  /-- The stream position of the next opcode byte (10_state.md rule R21). -/
  cursor  : Nat
  /-- The control state (10_state.md rule R32). -/
  fsm     : Fsm
  /-- The halt cause (10_state.md rule R23). -/
  cause   : Cause
  /-- The output channel, oldest record first (10_state.md rule R24). -/
  out     : List Record
  /-- The decode latches (10_state.md rule R25), unspecified between steps. -/
  latches : Latches
  /-- The stream the host has loaded (20_memory.md rule R40); its length is N. -/
  stream  : Memory
  /-- The configuration (00_scope.md rule R7). -/
  config  : Configuration
  /-- The model's own count of the free values drawn for the latches (notes/assumptions/1.md). -/
  draws   : Nat
  deriving DecidableEq, Repr

/-- Why the machine has no next state. -/
inductive Fault where
  /-- Raised by `step` in HALTED: no step is enabled there (40_dispatch.md rules R80, R96; 60_exceptions.md rule R226).
  Stuck as the spec says, so safe. -/
  | halted
  /-- Raised by `step` in a state that shows DECODING_OPERAND: the step is defined only in SCANNING (40_dispatch.md rule
  R81), and no step leaves a state so (10_state.md rule R32). Safe. -/
  | midInstruction
  /-- Raised by the stream's read port at a position outside 0 to N - 1 (20_memory.md rule R41). No step reads there.
  Safe. -/
  | readOutsideStream (position : Nat)
  deriving DecidableEq, Repr

/-- Why an instruction has no meaning in a state. -/
inductive Refusal where
  /-- Raised by an arm of `exec` whose instruction has no meaning yet; no arm does. Safe. -/
  | notModelled (mnemonic : String)
  /-- Raised by a fixed-operand or jump meaning that is run, outside `step`, under a configuration whose FIXED_TABLE has
  no entry for its opcode: it is no instruction there (41_fixed_operand.md rule R128; notes/assumptions/9.md). No step
  raises it. Safe. -/
  | notInOpcodeMap (op : Byte)
  deriving DecidableEq, Repr

/-- The latches of the reset literal (notes/assumptions/2.md): the spec gives none. -/
def Latches.atReset : Latches :=
  { i := 0, op := 0, p := 0, modrm := 0, mod := 0, reg := 0, rm := 0, disp := 0, imm := 0, op1 := "", op2 := "", w := 0,
    target := 0 }

/-- The machine right after reset with no stream loaded (10_state.md rule R35; 70_reset_and_hazards.md rules R240, R241),
under the default configuration. -/
def State.reset : State :=
  { cursor := 0
    fsm := .scanning
    cause := .none
    out := []
    latches := Latches.atReset
    stream := { length := 0, cells := [] }
    config := defaultConfiguration
    draws := 0 }

end Sys2Proof.Machine
end

