-- ==== Sys2Proof/Machine/Flags.lean ====
section
/-! DEFINITION. The block has no flags (10_state.md rule R26): no instruction reads or writes one. What a host can read
besides the records are the three read-only status fields of 10_state.md rule R30, with their numeric codes. -/

namespace Sys2Proof.Machine

/-- The code of the control state (10_state.md rule R32). -/
def Fsm.code : Fsm → BitVec 2
  | .scanning => 0
  | .decodingOperand => 1
  | .halted => 2

/-- The code of the halt cause (10_state.md rule R23; 60_exceptions.md rule R222). -/
def Cause.code : Cause → BitVec 3
  | .none => 0
  | .exhausted => 1
  | .truncModrm => 2
  | .truncDisp => 3
  | .truncImm => 4

/-- What the host reads between two steps (10_state.md rule R30). -/
structure StatusFields where
  fsm    : BitVec 2
  cause  : BitVec 3
  cursor : Nat
  deriving DecidableEq, Repr

/-- The read-only status port (10_state.md rule R30): a function of the state, so a read has no side effect. -/
def State.status (s : State) : StatusFields := { fsm := s.fsm.code, cause := s.cause.code, cursor := s.cursor }

end Sys2Proof.Machine
end

