-- ==== Sys2Proof/Machine/Text.lean ====
section
/-! DEFINITION. The string formatting primitives of 00_scope.md rule R13. -/

namespace Sys2Proof.Machine

/-- One uppercase hexadecimal (or decimal) digit. -/
def digitChar (d : Nat) : Char := if d < 10 then Char.ofNat (48 + d) else Char.ofNat (55 + d)

/-- The digits of `v` in a base of at least 2, most significant first, put before `acc`; none for 0. `fuel` bounds their
number. -/
def digitsOnto (base : Nat) : Nat → Nat → List Char → List Char
  | 0, _, acc => acc
  | fuel + 1, v, acc =>
    if v = 0 then acc else digitsOnto base fuel (v / base) (digitChar (v % base) :: acc)

/-- The digits of `v` without padding, none for 0. -/
def digits (base v : Nat) : List Char := digitsOnto base (v.log2 + 1) v []

/-- `dec`: decimal digits, no padding, no sign (00_scope.md rule R13). -/
def dec (v : Nat) : String := if v = 0 then "0" else String.ofList (digits 10 v)

/-- `hex2`: exactly two uppercase hexadecimal digits, for `v` up to 255 (00_scope.md rule R13). -/
def hex2 (v : Nat) : String := "0x" ++ String.ofList [digitChar (v / 16 % 16), digitChar (v % 16)]

/-- `hex4`: exactly four uppercase hexadecimal digits, for `v` up to 65535 (00_scope.md rule R13). -/
def hex4 (v : Nat) : String :=
  "0x" ++ String.ofList
    [digitChar (v / 4096 % 16), digitChar (v / 256 % 16), digitChar (v / 16 % 16), digitChar (v % 16)]

/-- `hexmin2`: uppercase hexadecimal digits, padded with zeros to at least two (00_scope.md rule R13). -/
def hexmin2 (v : Nat) : String :=
  "0x" ++ String.ofList (List.replicate (2 - (digits 16 v).length) '0' ++ digits 16 v)

/-- `shex`: `hexmin2` with a leading minus sign for a negative integer (00_scope.md rule R13). -/
def shex (v : Int) : String := if 0 ≤ v then hexmin2 v.toNat else "-" ++ hexmin2 (-v).toNat

end Sys2Proof.Machine
end

