-- ==== Sys2Proof/Machine/Operands.lean ====
section
/-! DEFINITION. Every operand form: the table lookups, the sign extensions and the text of the operand that MOD and RM
select (10_state.md rules R27, R28; 42_data_movement.md rules R141 to R146). -/

namespace Sys2Proof.Machine

/-- `sext_8` (00_scope.md rule R11). -/
def sext8 (b : BitVec 8) : Int := if b.toNat < 0x80 then b.toNat else b.toNat - 256

/-- `sext_16` (00_scope.md rule R11). -/
def sext16 (h : BitVec 16) : Int := if h.toNat < 0x8000 then h.toNat else h.toNat - 65536

/-- A resolved operand: a text, or the 'unresolved' marker of a lookup outside its table. The marker is told from a text
that happens to spell the same, so that the suppression of 42_data_movement.md rule R149 fires under no configuration
(notes/assumptions/7.md). -/
inductive Operand where
  | text (t : String)
  | unresolved
  deriving DecidableEq, Repr

/-- What an operand prints as: the marker prints as UNRESOLVED (10_state.md rule R27). -/
def Operand.print (cfg : Configuration) : Operand → String
  | .text t => t
  | .unresolved => cfg.unresolved

/-- The operand that a register index resolves to (10_state.md rule R27). -/
def regOperand (k : Nat) : Operand :=
  match registerTable[k]? with
  | some name => .text name
  | none => .unresolved

/-- `regName`, with the marker for an index outside the table (10_state.md rule R27). -/
def regName (cfg : Configuration) (k : Nat) : String := (regOperand k).print cfg

/-- `rmBase`, with the marker for an index outside the table (10_state.md rule R28). -/
def rmBase (cfg : Configuration) (k : Nat) : String := rmTable[k]?.getD cfg.unresolved

/-- The signed 8-bit displacement as sign and magnitude, a zero printed (42_data_movement.md rule R145). -/
def disp8Text (d : BitVec 8) : String :=
  if 0 ≤ sext8 d then "+" ++ hex2 (sext8 d).toNat else "-" ++ hex2 (-sext8 d).toNat

/-- The operand that MOD and RM select (42_data_movement.md rules R142 to R146). -/
def rmOperand (cfg : Configuration) : RmOperand → Operand
  | .reg rm => regOperand rm.toNat
  | .direct a => .text ("[" ++ hex4 a.toNat ++ "]")
  | .indirect rm => .text ("[" ++ rmBase cfg rm.toNat ++ "]")
  | .disp8 rm d => .text ("[" ++ rmBase cfg rm.toNat ++ disp8Text d ++ "]")
  | .disp16 rm d => .text ("[" ++ rmBase cfg rm.toNat ++ "+" ++ hex4 d.toNat ++ "]")

/-- The text of that operand. -/
def rmText (cfg : Configuration) (rm : RmOperand) : String := (rmOperand cfg rm).print cfg

/-- An immediate byte as an operand (42_data_movement.md rule R147). -/
def immOperand (imm : BitVec 8) : Operand := .text (hex2 imm.toNat)

/-- An operand with an immediate byte appended (42_data_movement.md rules R154, R155). -/
def Operand.appendImm (cfg : Configuration) (op : Operand) (imm : BitVec 8) : Operand :=
  .text (op.print cfg ++ " " ++ hex2 imm.toNat)

/-- The displacement bytes an operand consumes (30_encoding.md rule R58). -/
def rmDispSize : RmOperand → Nat
  | .reg _ => 0
  | .direct _ => 2
  | .indirect _ => 0
  | .disp8 _ _ => 1
  | .disp16 _ _ => 2

end Sys2Proof.Machine
end

