-- ==== Sys2Proof/Machine/Ops.lean ====
section
/-! DEFINITION. The named operations over the stream, the output channel and the control state, which every meaning goes
through: reading the stream, emitting, finishing an instruction, raising a truncation (the block's one exception), halting
on exhaustion, and what the host does (loading the stream, reset). -/

namespace Sys2Proof.Machine

/-! ### The stream -/

/-- What an unlisted position of the stream reads as (notes/assumptions/4.md). -/
def blankByte : Byte := 0x00

/-- The canonical form: addresses strictly rising and inside the stream, no listed byte equal to the blank one. -/
abbrev Memory.wf (m : Memory) : Prop :=
  m.cells.Pairwise (fun x y => x.1 < y.1) ∧ ∀ c ∈ m.cells, c.1 < m.length ∧ c.2 ≠ blankByte

/-- A stream of no bytes (70_reset_and_hazards.md rule R244). -/
def Memory.empty : Memory := { length := 0, cells := [] }

/-- The byte held for a position. -/
def Memory.cell (m : Memory) (a : Nat) : Byte := (m.cells.lookup a).getD blankByte

/-- `byteAt`, defined only for positions 0 to N - 1 (20_memory.md rule R41). -/
def Memory.byteAt (m : Memory) (a : Nat) : Option Byte := if a < m.length then some (m.cell a) else none

/-- `hasRemaining` (20_memory.md rule R42). -/
def Memory.hasRemaining (m : Memory) (p n : Nat) : Bool := decide (p + n ≤ m.length)

/-- Put a cell in its place by address; a blank byte is not listed. -/
def insertCell (a : Nat) (b : Byte) : List Host.Cell → List Host.Cell
  | [] => if b = blankByte then [] else [(a, b)]
  | c :: rest =>
    if a < c.1 then (if b = blankByte then c :: rest else (a, b) :: c :: rest)
    else if a = c.1 then (if b = blankByte then rest else (a, b) :: rest)
    else c :: insertCell a b rest

/-- The HOST puts a byte at a position, and the stream reaches at least to it (70_reset_and_hazards.md rule R242). No
step does this (20_memory.md rule R40). -/
def Memory.store (m : Memory) (a : Nat) (b : Byte) : Memory :=
  { length := max m.length (a + 1), cells := insertCell a b m.cells }

/-- The host puts consecutive bytes from a position on. -/
def Memory.storeBytes (m : Memory) (a : Nat) : List Byte → Memory
  | [] => m
  | b :: bs => (m.store a b).storeBytes (a + 1) bs

/-- The stream that holds exactly these bytes. -/
def Memory.ofBytes (bs : List Byte) : Memory := Memory.empty.storeBytes 0 bs

/-- Every byte from a position to the end of the stream. -/
def Memory.bytesFrom (m : Memory) (p : Nat) : List Byte := (List.range' p (m.length - p)).map m.cell

/-- `n` consecutive single-byte reads from `p` on (20_memory.md rules R43, R44); a read outside the stream faults (rule
R41). -/
def readBytes (m : Memory) : Nat → Nat → Except Fault (List Byte)
  | _, 0 => .ok []
  | p, n + 1 =>
    match m.byteAt p with
    | none => .error (.readOutsideStream p)
    | some b =>
      match readBytes m (p + 1) n with
      | .error f => .error f
      | .ok bs => .ok (b :: bs)

/-- The bytes the decoder may look at: from the cursor on, at most the longest instruction, and only as far as
`hasRemaining` allows (20_memory.md rules R41, R43). -/
def fetch (s : State) : Except Fault (List Byte) :=
  readBytes s.stream s.cursor (min maxInstrBytes (s.stream.length - s.cursor))

/-! ### The end of a step -/

/-- The latches are unspecified when a step ends (10_state.md rule R25): a free value each time. -/
def State.forgetLatches (s : State) : State :=
  { s with latches := Config.freeLatches s.draws, draws := s.draws + 1 }

/-- Append records to the output channel (10_state.md rule R24). -/
def State.emitAll (s : State) (rs : List Record) : State := { s with out := s.out ++ rs }

/-- `emit` (00_scope.md rule R12; 10_state.md rule R24). -/
def State.emit (s : State) (r : Record) : State := s.emitAll [r]

/-- The one write of the cursor, at the end of a step (10_state.md rule R22). -/
def State.finish (s : State) (cursor : Nat) : State := { s.forgetLatches with cursor := cursor }

/-- The cause that a missing field gives (60_exceptions.md rule R222). -/
def truncCause : TruncKind → Cause
  | .modrm => .truncModrm
  | .disp => .truncDisp
  | .imm => .truncImm

/-- Enter HALTED with a cause. -/
def State.halt (s : State) (cause : Cause) : State := { s.forgetLatches with fsm := .halted, cause := cause }

/-- TAKING THE EXCEPTION: `raise Truncated(kind)` (60_exceptions.md rule R221). The Diagnostic is emitted, the cause and
HALTED are written, and the cursor keeps the start of the truncated instruction. There is no return from it: only reset
leaves HALTED (rule R226), `State.applyReset` below. -/
def State.raiseTruncated (s : State) (kind : TruncKind) : State := (s.emit .diagnostic).halt (truncCause kind)

/-- Exhaustion: HALTED with no record (40_dispatch.md rule R89). -/
def State.haltExhausted (s : State) : State := s.halt .exhausted

/-! ### Shared steps of the one-byte instructions -/

/-- A silent skip of one byte (40_dispatch.md rules R83, R86). -/
def skipStep (s : State) : Host.Outcome State Fault Refusal := .next (s.finish (s.cursor + 1))

/-- The fixed-operand step: the mnemonic unmodified, no operands, one byte (40_dispatch.md rule R84; 41_fixed_operand.md
rule R129). -/
def fixedStep (op : Byte) (s : State) : Host.Outcome State Fault Refusal :=
  match s.config.fixedTable.lookup op with
  | some mn => .next ((s.emit (.line s.cursor mn none)).finish (s.cursor + 1))
  | none => .refused (.notInOpcodeMap op)

/-! ### What the host does -/

/-- Load the whole stream (70_reset_and_hazards.md rule R242). -/
def State.loadStream (s : State) (bs : List Byte) : State := { s with stream := Memory.ofBytes bs }

/-- The reset input, in any state (70_reset_and_hazards.md rules R240, R241): the run's state is discarded, the stream and
the configuration stay, and the latches are unspecified. -/
def State.applyReset (s : State) : State :=
  { s.forgetLatches with cursor := 0, fsm := .scanning, cause := .none, out := [] }

end Sys2Proof.Machine
end

