-- ==== Sys2Proof/Machine/Fixed.lean ====
section
/-! DEFINITION. The fixed-operand family: each instruction prints its mnemonic and moves the cursor by one
(41_fixed_operand.md rules R100 to R129). Its meaning on a real x86 is never performed (rule R129; 10_state.md rule R26). -/

namespace Sys2Proof.Machine

/-- `PUSHF`, 41_fixed_operand.md rule R100. -/
def execPushf (s : State) : Host.Outcome State Fault Refusal := fixedStep 0x9C s

/-- `POPF`, 41_fixed_operand.md rule R101. -/
def execPopf (s : State) : Host.Outcome State Fault Refusal := fixedStep 0x9D s

/-- `SAHF`, 41_fixed_operand.md rule R102. -/
def execSahf (s : State) : Host.Outcome State Fault Refusal := fixedStep 0x9E s

/-- `LAHF`, 41_fixed_operand.md rule R103. -/
def execLahf (s : State) : Host.Outcome State Fault Refusal := fixedStep 0x9F s

/-- `MOVSB`, 41_fixed_operand.md rule R104. -/
def execMovsb (s : State) : Host.Outcome State Fault Refusal := fixedStep 0xA4 s

/-- `MOVSW`, 41_fixed_operand.md rule R105. -/
def execMovsw (s : State) : Host.Outcome State Fault Refusal := fixedStep 0xA5 s

/-- `CMPSB`, 41_fixed_operand.md rule R106. -/
def execCmpsb (s : State) : Host.Outcome State Fault Refusal := fixedStep 0xA6 s

/-- `CMPSW`, 41_fixed_operand.md rule R107. -/
def execCmpsw (s : State) : Host.Outcome State Fault Refusal := fixedStep 0xA7 s

/-- `STOSB`, 41_fixed_operand.md rule R108. -/
def execStosb (s : State) : Host.Outcome State Fault Refusal := fixedStep 0xAA s

/-- `STOSW`, 41_fixed_operand.md rule R109. -/
def execStosw (s : State) : Host.Outcome State Fault Refusal := fixedStep 0xAB s

/-- `LODSB`, 41_fixed_operand.md rule R110. -/
def execLodsb (s : State) : Host.Outcome State Fault Refusal := fixedStep 0xAC s

/-- `LODSW`, 41_fixed_operand.md rule R111. -/
def execLodsw (s : State) : Host.Outcome State Fault Refusal := fixedStep 0xAD s

/-- `SCASB`, 41_fixed_operand.md rule R112. -/
def execScasb (s : State) : Host.Outcome State Fault Refusal := fixedStep 0xAE s

/-- `SCASW`, 41_fixed_operand.md rule R113. -/
def execScasw (s : State) : Host.Outcome State Fault Refusal := fixedStep 0xAF s

/-- `INT3`, 41_fixed_operand.md rule R114. -/
def execInt3 (s : State) : Host.Outcome State Fault Refusal := fixedStep 0xCC s

/-- `INTO`, 41_fixed_operand.md rule R115. -/
def execInto (s : State) : Host.Outcome State Fault Refusal := fixedStep 0xCE s

/-- `IRET`, 41_fixed_operand.md rule R116. -/
def execIret (s : State) : Host.Outcome State Fault Refusal := fixedStep 0xCF s

/-- `LOCK`, 41_fixed_operand.md rule R117. -/
def execLock (s : State) : Host.Outcome State Fault Refusal := fixedStep 0xF0 s

/-- `REPNE`, 41_fixed_operand.md rule R118. -/
def execRepne (s : State) : Host.Outcome State Fault Refusal := fixedStep 0xF2 s

/-- `REP`, 41_fixed_operand.md rule R119. -/
def execRep (s : State) : Host.Outcome State Fault Refusal := fixedStep 0xF3 s

/-- `HLT`, 41_fixed_operand.md rule R120. -/
def execHlt (s : State) : Host.Outcome State Fault Refusal := fixedStep 0xF4 s

/-- `CMC`, 41_fixed_operand.md rule R121. -/
def execCmc (s : State) : Host.Outcome State Fault Refusal := fixedStep 0xF5 s

/-- `CLC`, 41_fixed_operand.md rule R122. -/
def execClc (s : State) : Host.Outcome State Fault Refusal := fixedStep 0xF8 s

/-- `STC`, 41_fixed_operand.md rule R123. -/
def execStc (s : State) : Host.Outcome State Fault Refusal := fixedStep 0xF9 s

/-- `CLI`, 41_fixed_operand.md rule R124. -/
def execCli (s : State) : Host.Outcome State Fault Refusal := fixedStep 0xFA s

/-- `STI`, 41_fixed_operand.md rule R125. -/
def execSti (s : State) : Host.Outcome State Fault Refusal := fixedStep 0xFB s

/-- `CLD`, 41_fixed_operand.md rule R126. -/
def execCld (s : State) : Host.Outcome State Fault Refusal := fixedStep 0xFC s

/-- `STD`, 41_fixed_operand.md rule R127. -/
def execStd (s : State) : Host.Outcome State Fault Refusal := fixedStep 0xFD s

/-- A fixed-operand opcode of a non-default FIXED_TABLE, 40_dispatch.md rule R84. -/
def execFixedOp (op : Byte) (s : State) : Host.Outcome State Fault Refusal := fixedStep op s

end Sys2Proof.Machine
end

