-- ==== Sys2Proof/Machine/Jump.lean ====
section
/-! DEFINITION. The jump family: one Line whose mnemonic text carries the resolved target; the block never follows a
jump (43_jump.md rules R180 to R188, R190 to R205, R213 to R215). -/

namespace Sys2Proof.Machine

/-- The signed offset of a complete field: sign-extended for 1 and 2 bytes, unsigned for 8 (43_jump.md rule R181;
30_encoding.md rule R62). -/
def jumpOffset : JumpField → Int
  | .rel8 b => sext8 b
  | .rel16 h => sext16 h
  | .far64 q => q.toNat
  | .short _ _ => 0

/-- The target printed for a jump that starts at `i`: an integer, no wrap; a short field gives `i` itself
(43_jump.md rules R181 to R184). -/
def jumpTarget (i : Nat) (f : JumpField) : Int :=
  match f with
  | .short _ _ => i
  | f => i + 1 + f.width.bytes + jumpOffset f

/-- The cursor after a jump that starts at `i` in a stream of `n` bytes: past the field, or the end of the stream on a
soft-fail (43_jump.md rules R181, R182, R185). -/
def jumpNext (i n : Nat) (f : JumpField) : Nat :=
  match f with
  | .short _ _ => n
  | f => i + 1 + f.width.bytes

/-- The text of a jump line: the mnemonic, one space, the target (43_jump.md rule R180). -/
def jumpText (mnemonic : String) (target : Int) : String := mnemonic ++ " " ++ shex target

/-- The jump step (43_jump.md rules R181, R182). -/
def jumpStep (op : Byte) (f : JumpField) (s : State) : Host.Outcome State Fault Refusal :=
  match s.config.fixedTable.lookup op with
  | some mn =>
    .next ((s.emit (.line s.cursor (jumpText mn (jumpTarget s.cursor f)) none)).finish
      (jumpNext s.cursor s.stream.length f))
  | none => .refused (.notInOpcodeMap op)

/-- `JO`, 43_jump.md rule R190. -/
def execJo (f : JumpField) (s : State) : Host.Outcome State Fault Refusal := jumpStep 0x70 f s

/-- `JNO`, 43_jump.md rule R191. -/
def execJno (f : JumpField) (s : State) : Host.Outcome State Fault Refusal := jumpStep 0x71 f s

/-- `JB`, 43_jump.md rule R192. -/
def execJb (f : JumpField) (s : State) : Host.Outcome State Fault Refusal := jumpStep 0x72 f s

/-- `JAE`, 43_jump.md rule R193. -/
def execJae (f : JumpField) (s : State) : Host.Outcome State Fault Refusal := jumpStep 0x73 f s

/-- `JE`, 43_jump.md rule R194. -/
def execJe (f : JumpField) (s : State) : Host.Outcome State Fault Refusal := jumpStep 0x74 f s

/-- `JNE`, 43_jump.md rule R195. -/
def execJne (f : JumpField) (s : State) : Host.Outcome State Fault Refusal := jumpStep 0x75 f s

/-- `JBE`, 43_jump.md rule R196. -/
def execJbe (f : JumpField) (s : State) : Host.Outcome State Fault Refusal := jumpStep 0x76 f s

/-- `JA`, 43_jump.md rule R197. -/
def execJa (f : JumpField) (s : State) : Host.Outcome State Fault Refusal := jumpStep 0x77 f s

/-- `JS`, 43_jump.md rule R198. -/
def execJs (f : JumpField) (s : State) : Host.Outcome State Fault Refusal := jumpStep 0x78 f s

/-- `JNS`, 43_jump.md rule R199. -/
def execJns (f : JumpField) (s : State) : Host.Outcome State Fault Refusal := jumpStep 0x79 f s

/-- `JP`, 43_jump.md rule R200. -/
def execJp (f : JumpField) (s : State) : Host.Outcome State Fault Refusal := jumpStep 0x7A f s

/-- `JNP`, 43_jump.md rule R201. -/
def execJnp (f : JumpField) (s : State) : Host.Outcome State Fault Refusal := jumpStep 0x7B f s

/-- `JL`, 43_jump.md rule R202. -/
def execJl (f : JumpField) (s : State) : Host.Outcome State Fault Refusal := jumpStep 0x7C f s

/-- `JGE`, 43_jump.md rule R203. -/
def execJge (f : JumpField) (s : State) : Host.Outcome State Fault Refusal := jumpStep 0x7D f s

/-- `JLE`, 43_jump.md rule R204. -/
def execJle (f : JumpField) (s : State) : Host.Outcome State Fault Refusal := jumpStep 0x7E f s

/-- `JG`, 43_jump.md rule R205. -/
def execJg (f : JumpField) (s : State) : Host.Outcome State Fault Refusal := jumpStep 0x7F f s

/-- `JMP SHORT`, 43_jump.md rule R213. -/
def execJmpShort (f : JumpField) (s : State) : Host.Outcome State Fault Refusal := jumpStep 0xEB f s

/-- `JMP`, 43_jump.md rule R214. -/
def execJmp (f : JumpField) (s : State) : Host.Outcome State Fault Refusal := jumpStep 0xE9 f s

/-- `JMP FAR`, 43_jump.md rule R215. -/
def execJmpFar (f : JumpField) (s : State) : Host.Outcome State Fault Refusal := jumpStep 0xEA f s

/-- A jump opcode of a non-default JUMP_WIDTH, 40_dispatch.md rule R85. -/
def execJumpOp (op : Byte) (f : JumpField) (s : State) : Host.Outcome State Fault Refusal := jumpStep op f s

end Sys2Proof.Machine
end

