-- ==== Sys2Proof/Machine/Move.lean ====
section
/-! DEFINITION. The data-movement family: one Line with two operands, or the truncation of the run
(42_data_movement.md rules R140 to R149, R150 to R171, R174). -/

namespace Sys2Proof.Machine

/-- The records of a data movement that starts at `i`: its Line, or nothing where both operands are the unresolved
marker (42_data_movement.md rules R148, R149). -/
def movRecords (cfg : Configuration) (i : Nat) (op1 op2 : Operand) : List Record :=
  if op1 = .unresolved ∧ op2 = .unresolved then []
  else [.line i cfg.movMnemonic (some (op1.print cfg, op2.print cfg))]

/-- Print a data movement with these operands and this many bytes after the opcode (42_data_movement.md rules R148, R149). -/
def printMov (op1 op2 : Operand) (operandBytes : Nat) (s : State) : State :=
  (s.emitAll (movRecords s.config s.cursor op1 op2)).finish (s.cursor + 1 + operandBytes)

/-- The data-movement step (42_data_movement.md rule R148). The REG-derived operand stands first, or the register of the
opcode's low three bits (rules R140, R141, R147); an immediate is appended to the RM operand (rules R154, R155) or
replaces it (rule R147); a missing field halts the run (60_exceptions.md rule R221). -/
def moveStep (op : Byte) (o : MovOperands) (s : State) : Host.Outcome State Fault Refusal :=
  match o with
  | .modrm m => .next (printMov (regOperand m.reg.toNat) (rmOperand s.config m.rm) (1 + rmDispSize m.rm) s)
  | .modrmImm m imm =>
    if isImmReg op then
      .next (printMov (regOperand (rmField op).toNat) (immOperand imm) (1 + rmDispSize m.rm + 1) s)
    else
      .next (printMov (regOperand m.reg.toNat) ((rmOperand s.config m.rm).appendImm s.config imm)
        (1 + rmDispSize m.rm + 1) s)
  | .imm imm => .next (printMov (regOperand (rmField op).toNat) (immOperand imm) 1 s)
  | .truncated kind _ => .next (s.raiseTruncated kind)

/-- `MOV`, opcode 0x88, 42_data_movement.md rule R150. -/
def execMov88 (o : MovOperands) (s : State) : Host.Outcome State Fault Refusal := moveStep 0x88 o s

/-- `MOV`, opcode 0x89, 42_data_movement.md rule R151. -/
def execMov89 (o : MovOperands) (s : State) : Host.Outcome State Fault Refusal := moveStep 0x89 o s

/-- `MOV`, opcode 0x8A, 42_data_movement.md rule R152. -/
def execMov8A (o : MovOperands) (s : State) : Host.Outcome State Fault Refusal := moveStep 0x8A o s

/-- `MOV`, opcode 0x8B, 42_data_movement.md rule R153. -/
def execMov8B (o : MovOperands) (s : State) : Host.Outcome State Fault Refusal := moveStep 0x8B o s

/-- `MOV`, opcode 0xC6, 42_data_movement.md rule R154. -/
def execMovC6 (o : MovOperands) (s : State) : Host.Outcome State Fault Refusal := moveStep 0xC6 o s

/-- `MOV`, opcode 0xC7, 42_data_movement.md rule R155. -/
def execMovC7 (o : MovOperands) (s : State) : Host.Outcome State Fault Refusal := moveStep 0xC7 o s

/-- `MOV`, opcode 0xB0, 42_data_movement.md rule R156. -/
def execMovB0 (o : MovOperands) (s : State) : Host.Outcome State Fault Refusal := moveStep 0xB0 o s

/-- `MOV`, opcode 0xB1, 42_data_movement.md rule R157. -/
def execMovB1 (o : MovOperands) (s : State) : Host.Outcome State Fault Refusal := moveStep 0xB1 o s

/-- `MOV`, opcode 0xB2, 42_data_movement.md rule R158. -/
def execMovB2 (o : MovOperands) (s : State) : Host.Outcome State Fault Refusal := moveStep 0xB2 o s

/-- `MOV`, opcode 0xB3, 42_data_movement.md rule R159. -/
def execMovB3 (o : MovOperands) (s : State) : Host.Outcome State Fault Refusal := moveStep 0xB3 o s

/-- `MOV`, opcode 0xB4, 42_data_movement.md rule R160. -/
def execMovB4 (o : MovOperands) (s : State) : Host.Outcome State Fault Refusal := moveStep 0xB4 o s

/-- `MOV`, opcode 0xB5, 42_data_movement.md rule R161. -/
def execMovB5 (o : MovOperands) (s : State) : Host.Outcome State Fault Refusal := moveStep 0xB5 o s

/-- `MOV`, opcode 0xB6, 42_data_movement.md rule R162. -/
def execMovB6 (o : MovOperands) (s : State) : Host.Outcome State Fault Refusal := moveStep 0xB6 o s

/-- `MOV`, opcode 0xB7, 42_data_movement.md rule R163. -/
def execMovB7 (o : MovOperands) (s : State) : Host.Outcome State Fault Refusal := moveStep 0xB7 o s

/-- `MOV`, opcode 0xB8, 42_data_movement.md rule R164. -/
def execMovB8 (o : MovOperands) (s : State) : Host.Outcome State Fault Refusal := moveStep 0xB8 o s

/-- `MOV`, opcode 0xB9, 42_data_movement.md rule R165. -/
def execMovB9 (o : MovOperands) (s : State) : Host.Outcome State Fault Refusal := moveStep 0xB9 o s

/-- `MOV`, opcode 0xBA, 42_data_movement.md rule R166. -/
def execMovBA (o : MovOperands) (s : State) : Host.Outcome State Fault Refusal := moveStep 0xBA o s

/-- `MOV`, opcode 0xBB, 42_data_movement.md rule R167. -/
def execMovBB (o : MovOperands) (s : State) : Host.Outcome State Fault Refusal := moveStep 0xBB o s

/-- `MOV`, opcode 0xBC, 42_data_movement.md rule R168. -/
def execMovBC (o : MovOperands) (s : State) : Host.Outcome State Fault Refusal := moveStep 0xBC o s

/-- `MOV`, opcode 0xBD, 42_data_movement.md rule R169. -/
def execMovBD (o : MovOperands) (s : State) : Host.Outcome State Fault Refusal := moveStep 0xBD o s

/-- `MOV`, opcode 0xBE, 42_data_movement.md rule R170. -/
def execMovBE (o : MovOperands) (s : State) : Host.Outcome State Fault Refusal := moveStep 0xBE o s

/-- `MOV`, opcode 0xBF, 42_data_movement.md rule R171. -/
def execMovBF (o : MovOperands) (s : State) : Host.Outcome State Fault Refusal := moveStep 0xBF o s

/-- A data-movement opcode of a non-default MOV_SET, 40_dispatch.md rule R87. -/
def execMovOp (op : Byte) (o : MovOperands) (s : State) : Host.Outcome State Fault Refusal := moveStep op o s

end Sys2Proof.Machine
end

