-- ==== Sys2Proof/Machine/Skip.lean ====
section
/-! DEFINITION. The two one-byte cases that emit nothing. -/

namespace Sys2Proof.Machine

/-- `(sentinel)`, 40_dispatch.md rule R83. -/
def execSentinel (_op : Byte) (s : State) : Host.Outcome State Fault Refusal := skipStep s

/-- `(unrecognized)`, 40_dispatch.md rule R86. -/
def execUnrecognized (_op : Byte) (s : State) : Host.Outcome State Fault Refusal := skipStep s

end Sys2Proof.Machine
end

