-- ==== Sys2Proof/Machine/Dispatch.lean ====
section
/-! DEFINITION. One arm per constructor of Instr. -/

namespace Sys2Proof.Machine

def exec (i : Instr) (s : State) : Host.Outcome State Fault Refusal :=
  match i with
  | .sentinel op => Sys2Proof.Machine.execSentinel op s
  | .pushf => Sys2Proof.Machine.execPushf s
  | .popf => Sys2Proof.Machine.execPopf s
  | .sahf => Sys2Proof.Machine.execSahf s
  | .lahf => Sys2Proof.Machine.execLahf s
  | .movsb => Sys2Proof.Machine.execMovsb s
  | .movsw => Sys2Proof.Machine.execMovsw s
  | .cmpsb => Sys2Proof.Machine.execCmpsb s
  | .cmpsw => Sys2Proof.Machine.execCmpsw s
  | .stosb => Sys2Proof.Machine.execStosb s
  | .stosw => Sys2Proof.Machine.execStosw s
  | .lodsb => Sys2Proof.Machine.execLodsb s
  | .lodsw => Sys2Proof.Machine.execLodsw s
  | .scasb => Sys2Proof.Machine.execScasb s
  | .scasw => Sys2Proof.Machine.execScasw s
  | .int3 => Sys2Proof.Machine.execInt3 s
  | .into => Sys2Proof.Machine.execInto s
  | .iret => Sys2Proof.Machine.execIret s
  | .lock => Sys2Proof.Machine.execLock s
  | .repne => Sys2Proof.Machine.execRepne s
  | .rep => Sys2Proof.Machine.execRep s
  | .hlt => Sys2Proof.Machine.execHlt s
  | .cmc => Sys2Proof.Machine.execCmc s
  | .clc => Sys2Proof.Machine.execClc s
  | .stc => Sys2Proof.Machine.execStc s
  | .cli => Sys2Proof.Machine.execCli s
  | .sti => Sys2Proof.Machine.execSti s
  | .cld => Sys2Proof.Machine.execCld s
  | .std => Sys2Proof.Machine.execStd s
  | .jo f => Sys2Proof.Machine.execJo f s
  | .jno f => Sys2Proof.Machine.execJno f s
  | .jb f => Sys2Proof.Machine.execJb f s
  | .jae f => Sys2Proof.Machine.execJae f s
  | .je f => Sys2Proof.Machine.execJe f s
  | .jne f => Sys2Proof.Machine.execJne f s
  | .jbe f => Sys2Proof.Machine.execJbe f s
  | .ja f => Sys2Proof.Machine.execJa f s
  | .js f => Sys2Proof.Machine.execJs f s
  | .jns f => Sys2Proof.Machine.execJns f s
  | .jp f => Sys2Proof.Machine.execJp f s
  | .jnp f => Sys2Proof.Machine.execJnp f s
  | .jl f => Sys2Proof.Machine.execJl f s
  | .jge f => Sys2Proof.Machine.execJge f s
  | .jle f => Sys2Proof.Machine.execJle f s
  | .jg f => Sys2Proof.Machine.execJg f s
  | .jmpShort f => Sys2Proof.Machine.execJmpShort f s
  | .jmp f => Sys2Proof.Machine.execJmp f s
  | .jmpFar f => Sys2Proof.Machine.execJmpFar f s
  | .mov88 o => Sys2Proof.Machine.execMov88 o s
  | .mov89 o => Sys2Proof.Machine.execMov89 o s
  | .mov8A o => Sys2Proof.Machine.execMov8A o s
  | .mov8B o => Sys2Proof.Machine.execMov8B o s
  | .movC6 o => Sys2Proof.Machine.execMovC6 o s
  | .movC7 o => Sys2Proof.Machine.execMovC7 o s
  | .movB0 o => Sys2Proof.Machine.execMovB0 o s
  | .movB1 o => Sys2Proof.Machine.execMovB1 o s
  | .movB2 o => Sys2Proof.Machine.execMovB2 o s
  | .movB3 o => Sys2Proof.Machine.execMovB3 o s
  | .movB4 o => Sys2Proof.Machine.execMovB4 o s
  | .movB5 o => Sys2Proof.Machine.execMovB5 o s
  | .movB6 o => Sys2Proof.Machine.execMovB6 o s
  | .movB7 o => Sys2Proof.Machine.execMovB7 o s
  | .movB8 o => Sys2Proof.Machine.execMovB8 o s
  | .movB9 o => Sys2Proof.Machine.execMovB9 o s
  | .movBA o => Sys2Proof.Machine.execMovBA o s
  | .movBB o => Sys2Proof.Machine.execMovBB o s
  | .movBC o => Sys2Proof.Machine.execMovBC o s
  | .movBD o => Sys2Proof.Machine.execMovBD o s
  | .movBE o => Sys2Proof.Machine.execMovBE o s
  | .movBF o => Sys2Proof.Machine.execMovBF o s
  | .unrecognized op => Sys2Proof.Machine.execUnrecognized op s
  | .fixedOp op => Sys2Proof.Machine.execFixedOp op s
  | .jumpOp op f => Sys2Proof.Machine.execJumpOp op f s
  | .movOp op o => Sys2Proof.Machine.execMovOp op o s

end Sys2Proof.Machine
end

