-- ==== Sys2Proof/Machine/Step.lean ====
section
/-! DEFINITION. One step (40_dispatch.md rules R80, R81): in SCANNING, halt if the stream is exhausted, else fetch, decode
and run the instruction at the cursor. -/

namespace Sys2Proof.Machine

/-- One step of the block (40_dispatch.md rule R81). -/
def step (s : State) : Host.Outcome State Fault Refusal :=
  match s.fsm with
  | .halted => .fault .halted
  | .decodingOperand => .fault .midInstruction
  | .scanning =>
    if s.stream.hasRemaining s.cursor 1 then
      match fetch s with
      | .error f => .fault f
      | .ok bytes =>
        match decode s.config bytes with
        | .error .noOpcodeByte => .fault (.readOutsideStream s.cursor)
        | .ok i => exec i s
    else .next s.haltExhausted

/-- `s` with the instruction of a table word stored at its cursor, and SCANNING, so that the next step fetches and runs
it. This stands for the host's loading of the stream (70_reset_and_hazards.md rule R242; notes/assumptions/4.md). -/
def State.withFetchWord (s : State) (nbits w : Nat) : State :=
  { s with fsm := .scanning, stream := s.stream.storeBytes s.cursor (tableBytes nbits w) }

end Sys2Proof.Machine
end

