-- ==== Sys2Proof/Machine/Render.lean ====
section
/-! DEFINITION. The text of the output records (40_dispatch.md rules R91 to R93; 30_encoding.md rule R70), each ended by
one line feed. -/

namespace Sys2Proof.Machine

/-- The part of a Line after its offset (40_dispatch.md rule R91). -/
def bodyText (mnemonic : String) : Option (String × String) → String
  | none => mnemonic
  | some (op1, op2) => mnemonic ++ " " ++ op1 ++ ", " ++ op2

/-- The text of a record (40_dispatch.md rules R91 to R93). -/
def Record.text (cfg : Configuration) : Record → String
  | .line offset mnemonic operands => "CS:" ++ dec offset ++ "   " ++ bodyText mnemonic operands ++ "\n"
  | .diagnostic => cfg.truncMsg ++ "\n"

/-- Everything printed so far. -/
def State.outText (s : State) : String := String.join (s.out.map (Record.text s.config))

end Sys2Proof.Machine
end

