-- ==== Sys2Proof/Safety.lean ====
section
/-! DEFINITION. What the spec says of every state between two steps, in the terms the statements use. -/

namespace Sys2Proof.Machine

/-- The causes that a truncation gives (60_exceptions.md rule R222). -/
def Cause.isTruncation : Cause → Bool
  | .truncModrm | .truncDisp | .truncImm => true
  | .none | .exhausted => false

/-- The start offsets of the Lines among some records, in order. -/
def lineOffsets : List Record → List Nat
  | [] => []
  | .line offset _ _ :: rest => offset :: lineOffsets rest
  | .diagnostic :: rest => lineOffsets rest

/-- The whole-machine invariant. Each field names the rule it states. -/
structure State.Inv (s : State) : Prop where
  /-- The stream is in its canonical form (the model's own representation). -/
  stream_wf : s.stream.wf
  /-- The cursor is in 0..N (10_state.md rule R33(a)). -/
  cursor_le : s.cursor ≤ s.stream.length
  /-- Between steps the block scans with no cause or is halted with one (10_state.md rules R23, R32). -/
  halted_iff_cause : (s.fsm = .scanning ∧ s.cause = .none) ∨ (s.fsm = .halted ∧ s.cause ≠ .none)
  /-- A run that ended in EXHAUSTED has the cursor at N (40_dispatch.md rule R96). -/
  exhausted_at_end : s.cause = .exhausted → s.cursor = s.stream.length
  /-- A truncated run keeps the start of the truncated instruction, inside the stream (60_exceptions.md rules R221, R222). -/
  truncated_inside : s.cause.isTruncation = true → s.cursor < s.stream.length
  /-- The offsets of successive Lines strictly increase (40_dispatch.md rule R94). -/
  offsets_increase : (lineOffsets s.out).Pairwise (· < ·)
  /-- Every Line emitted so far began before the cursor (10_state.md rule R33). -/
  offsets_before_cursor : ∀ o ∈ lineOffsets s.out, o < s.cursor
  /-- After a truncation the one Diagnostic is the last record (60_exceptions.md rule R223). -/
  diagnostic_last : s.cause.isTruncation = true → ∃ lines, s.out = lines ++ [.diagnostic] ∧ .diagnostic ∉ lines
  /-- Without a truncation there is no Diagnostic (60_exceptions.md rules R221, R227). -/
  no_diagnostic : s.cause.isTruncation = false → .diagnostic ∉ s.out

/-- A state in which a step decodes an instruction: SCANNING, with a byte at the cursor (40_dispatch.md rule R81). -/
def State.Ready (s : State) : Prop := s.fsm = .scanning ∧ s.cursor < s.stream.length

end Sys2Proof.Machine
end

