-- ==== Sys2Proof/Reference.lean ====
section
/-! DEFINITION. The spec's own pseudocode of one step, written down position by position (40_dispatch.md rules R81, R82;
42_data_movement.md rule R148; 43_jump.md rule R181; 60_exceptions.md rule R221), without instructions, decoder or
encoder. It departs from the text in one point, the reading of the suppression check in `moveEnd`
(notes/assumptions/7.md). The machine does not use it; statements compare the machine with it. -/

namespace Sys2Proof.Machine

/-- What the host sees of a state, and what the spec defines of it between steps: all but the latches and the
parameters. -/
structure Visible where
  cursor : Nat
  fsm    : Fsm
  cause  : Cause
  out    : List Record
  deriving DecidableEq, Repr

/-- The visible part of a state. -/
def State.visible (s : State) : Visible := { cursor := s.cursor, fsm := s.fsm, cause := s.cause, out := s.out }

namespace Reference

/-- `LE(p, w)` (20_memory.md rule R44): the sum over `k` of `byteAt(p + k) * 256 ^ k`. -/
def le (m : Memory) (p w : Nat) : Nat := ((List.range w).map fun k => (m.cell (p + k)).toNat * 256 ^ k).sum

/-- The offset that a raw field of `w` bytes stands for (30_encoding.md rule R62). -/
def offset (w raw : Nat) : Int :=
  if w = 1 then (if raw < 0x80 then raw else raw - 256)
  else if w = 2 then (if raw < 0x8000 then raw else raw - 65536)
  else raw

/-- `raise Truncated(kind)` (60_exceptions.md rule R221). -/
def raise (s : State) (cause : Cause) : Visible :=
  { cursor := s.cursor, fsm := .halted, cause := cause, out := s.out ++ [.diagnostic] }

/-- A step that goes on scanning at `p`. -/
def goOn (s : State) (p : Nat) (emitted : List Record) : Visible :=
  { cursor := p, fsm := s.fsm, cause := s.cause, out := s.out ++ emitted }

/-- The end of `moveStep`: emit the Line unless both operands are the marker. DEDUCED: the marker is compared, where the
pseudocode of 42_data_movement.md rule R148 writes a comparison with UNRESOLVED, so that rule R149 holds too
(notes/assumptions/7.md). -/
def moveEnd (s : State) (op1 op2 : Operand) (p : Nat) : Visible :=
  goOn s p (if ¬(op1 = .unresolved ∧ op2 = .unresolved) then
    [.line s.cursor s.config.movMnemonic (some (op1.print s.config, op2.print s.config))] else [])

/-- `moveStep` from the RM operand on (42_data_movement.md rule R148): `op2` and `p` are what it has given. -/
def moveRest (s : State) (op reg : Nat) (op2 : Operand) (p : Nat) : Visible :=
  if 0xB0 ≤ op ∧ op ≤ 0xBF then
    if ¬(p + 1 ≤ s.stream.length) then raise s .truncImm
    else moveEnd s (regOperand (op % 8)) (.text (hex2 (s.stream.cell p).toNat)) (p + 1)
  else if op = 0xC6 ∨ op = 0xC7 then
    if ¬(p + 1 ≤ s.stream.length) then raise s .truncImm
    else moveEnd s (regOperand reg) (.text (op2.print s.config ++ " " ++ hex2 (s.stream.cell p).toNat)) (p + 1)
  else moveEnd s (regOperand reg) op2 p

/-- `moveStep` (42_data_movement.md rule R148), with the RM operand of rules R142 to R146. -/
def moveStep (s : State) (op : Nat) : Visible :=
  let n := s.stream.length
  let p := s.cursor + 1
  if (0xB0 ≤ op ∧ op ≤ 0xBF) ∧ s.config.immregModrm = .skip then
    if ¬(p + 1 ≤ n) then raise s .truncImm
    else moveEnd s (regOperand (op % 8)) (.text (hex2 (s.stream.cell p).toNat)) (p + 1)
  else if ¬(p + 1 ≤ n) then raise s .truncModrm
  else
    let modrm := (s.stream.cell p).toNat
    let p := p + 1
    let mod := modrm / 64
    let reg := modrm / 8 % 8
    let rm := modrm % 8
    if mod = 3 then moveRest s op reg (regOperand rm) p
    else if mod = 0 ∧ rm = 6 then
      if ¬(p + 2 ≤ n) then raise s .truncDisp
      else moveRest s op reg (.text ("[" ++ hex4 (le s.stream p 2) ++ "]")) (p + 2)
    else if mod = 0 then moveRest s op reg (.text ("[" ++ rmBase s.config rm ++ "]")) p
    else if mod = 1 then
      if ¬(p + 1 ≤ n) then raise s .truncDisp
      else
        let d := offset 1 (s.stream.cell p).toNat
        moveRest s op reg
          (.text ("[" ++ rmBase s.config rm ++ (if 0 ≤ d then "+" ++ hex2 d.toNat else "-" ++ hex2 (-d).toNat) ++ "]"))
          (p + 1)
    else
      if ¬(p + 2 ≤ n) then raise s .truncDisp
      else moveRest s op reg (.text ("[" ++ rmBase s.config rm ++ "+" ++ hex4 (le s.stream p 2) ++ "]")) (p + 2)

/-- `jumpStep` (43_jump.md rule R181). -/
def jumpStep (s : State) (mnemonic : String) (w : Nat) : Visible :=
  let i := s.cursor
  if ¬(i + 1 + w ≤ s.stream.length) then
    goOn s s.stream.length [.line i (mnemonic ++ " " ++ shex i) none]
  else
    goOn s (i + 1 + w) [.line i (mnemonic ++ " " ++ shex (i + w + 1 + offset w (le s.stream (i + 1) w))) none]

/-- `step` (40_dispatch.md rules R81, R82), in SCANNING. -/
def step (s : State) : Visible :=
  let i := s.cursor
  if ¬(i + 1 ≤ s.stream.length) then { cursor := i, fsm := .halted, cause := .exhausted, out := s.out }
  else
    let op := s.stream.cell i
    if op = s.config.sentinel then goOn s (i + 1) []
    else
      match s.config.fixedTable.lookup op with
      | some mn =>
        match s.config.jumpWidth.lookup op with
        | some w => jumpStep s mn w.bytes
        | none => goOn s (i + 1) [.line i mn none]
      | none => if op ∈ s.config.movSet then moveStep s op.toNat else goOn s (i + 1) []

end Reference

end Sys2Proof.Machine
end

