-- ==== Sys2Proof/Certificates/Slice0/Obligations.lean ====
section
/-! DEFINITION. The statements for the provers. A statement says nothing of the latches, which are unspecified between
steps (10_state.md rule R25), but for the one that says they cannot matter. -/

open Sys2Proof Sys2Proof.Machine

namespace Sys2Proof.Claims

/-- RESULT AND FRAME of an instruction that goes on: the outcome is a next state with the cursor at `p` and exactly these
records appended; the control state, the cause, the stream (said of every read as well) and the configuration are as
before. -/
def Prints (o : Host.Outcome State Fault Refusal) (s : State) (p : Nat) (appended : List Record) : Prop :=
  ∃ t, o = .next t ∧ t.cursor = p ∧ t.out = s.out ++ appended ∧ t.fsm = s.fsm ∧ t.cause = s.cause ∧
    t.config = s.config ∧ t.stream = s.stream ∧ ∀ a, t.stream.byteAt a = s.stream.byteAt a

/-- RESULT AND FRAME of a truncation (60_exceptions.md rule R221): a Diagnostic is appended, the block halts with the
cause, and the cursor, the stream and the configuration are as before. -/
def Truncates (o : Host.Outcome State Fault Refusal) (s : State) (cause : Cause) : Prop :=
  ∃ t, o = .next t ∧ t.fsm = .halted ∧ t.cause = cause ∧ t.out = s.out ++ [.diagnostic] ∧ t.cursor = s.cursor ∧
    t.config = s.config ∧ t.stream = s.stream ∧ ∀ a, t.stream.byteAt a = s.stream.byteAt a

/-- The cause of each missing field (60_exceptions.md rule R222). -/
def causeOf : TruncKind → Cause
  | .modrm => .truncModrm
  | .disp => .truncDisp
  | .imm => .truncImm

/-- The default configuration with IMMREG_MODRM = CONSUME (42_data_movement.md rule R147). -/
def consumeConfiguration : Configuration := { defaultConfiguration with immregModrm := .consume }

/-- The rule of a fixed-operand opcode (41_fixed_operand.md rule R129 and its own): its default mnemonic, its one byte
whatever follows, and what it does under any configuration that has a mnemonic for it. -/
def FixedRule (op : Byte) (mn : String) (i : Instr) : Prop :=
  defaultConfiguration.fixedTable.lookup op = some mn ∧ isFixedOpcode defaultConfiguration op = true ∧
  (∀ cfg rest, isFixedOpcode cfg op = true → decode cfg (op :: rest) = .ok i) ∧
  ∀ (s : State) (m : String), s.config.fixedTable.lookup op = some m →
    Prints (exec i s) s (s.cursor + 1) [.line s.cursor m none]

/-- The rule of a jump opcode of width 1 (43_jump.md rule R181 and its own). -/
def ShortJumpRule (op : Byte) (mn : String) (mk : JumpField → Instr) : Prop :=
  defaultConfiguration.fixedTable.lookup op = some mn ∧ isJumpOpcode defaultConfiguration op .one = true ∧
  (∀ cfg, isJumpOpcode cfg op .one = true →
    (∀ b rest, decode cfg (op :: b :: rest) = .ok (mk (.rel8 b))) ∧ decode cfg [op] = .ok (mk (.short .one []))) ∧
  ∀ (s : State) (m : String), s.config.fixedTable.lookup op = some m →
    (∀ b : BitVec 8, Prints (exec (mk (.rel8 b)) s) s (s.cursor + 2)
      [.line s.cursor (m ++ " " ++ shex (s.cursor + 2 + Reference.offset 1 b.toNat)) none]) ∧
    Prints (exec (mk (.short .one [])) s) s s.stream.length [.line s.cursor (m ++ " " ++ shex s.cursor) none]

/-- The one record of a data movement with these operand texts (42_data_movement.md rule R148). -/
def movLine (s : State) (op1 op2 : String) : List Record := [.line s.cursor s.config.movMnemonic (some (op1, op2))]

/-- What a ModRM-reading data-movement opcode decodes to where the stream ends inside it before an immediate
(42_data_movement.md rule R174). -/
def TruncatedModRm (cfg : Configuration) (op : Byte) (mk : MovOperands → Instr) : Prop :=
  decode cfg [op] = .ok (mk (.truncated .modrm [])) ∧
  ∀ m more, more.length < dispSize m → decode cfg (op :: m :: more) = .ok (mk (.truncated .disp (m :: more)))

/-- The rule of a register/memory opcode (42_data_movement.md rules R140, R148 and its own). -/
def MovRmRule (op : Byte) (mk : MovOperands → Instr) : Prop :=
  (∀ cfg, isMovOpcode cfg op = true →
    (∀ m rest, m.rm.wellFormed = true → decode cfg (op :: (m.bytes ++ rest)) = .ok (mk (.modrm m))) ∧
    TruncatedModRm cfg op mk) ∧
  ∀ s : State,
    (∀ m, Prints (exec (mk (.modrm m)) s) s (s.cursor + 2 + rmDispSize m.rm)
      (movLine s (regName s.config m.reg.toNat) (rmText s.config m.rm))) ∧
    ∀ kind present, Truncates (exec (mk (.truncated kind present)) s) s (causeOf kind)

/-- The rule of an immediate-to-memory opcode (42_data_movement.md rules R148, R154, R155). -/
def MovImRule (op : Byte) (mk : MovOperands → Instr) : Prop :=
  (∀ cfg, isMovOpcode cfg op = true →
    (∀ m b rest, m.rm.wellFormed = true → decode cfg (op :: (m.bytes ++ b :: rest)) = .ok (mk (.modrmImm m b))) ∧
    TruncatedModRm cfg op mk ∧
    ∀ m more, more.length = dispSize m → decode cfg (op :: m :: more) = .ok (mk (.truncated .imm (m :: more)))) ∧
  ∀ s : State,
    (∀ m b, Prints (exec (mk (.modrmImm m b)) s) s (s.cursor + 3 + rmDispSize m.rm)
      (movLine s (regName s.config m.reg.toNat) (rmText s.config m.rm ++ " " ++ hex2 b.toNat))) ∧
    ∀ kind present, Truncates (exec (mk (.truncated kind present)) s) s (causeOf kind)

/-- The rule of an immediate-to-register opcode whose low three bits select the register `name`, in both modes of
IMMREG_MODRM (42_data_movement.md rule R147 and its own). -/
def MovIrRule (op : Byte) (name : String) (mk : MovOperands → Instr) : Prop :=
  (∀ cfg, isMovOpcode cfg op = true → cfg.immregModrm = .skip →
    (∀ b rest, decode cfg (op :: b :: rest) = .ok (mk (.imm b))) ∧ decode cfg [op] = .ok (mk (.truncated .imm []))) ∧
  (∀ cfg, isMovOpcode cfg op = true → cfg.immregModrm = .consume →
    (∀ m b rest, m.rm.wellFormed = true → decode cfg (op :: (m.bytes ++ b :: rest)) = .ok (mk (.modrmImm m b))) ∧
    TruncatedModRm cfg op mk ∧
    ∀ m more, more.length = dispSize m → decode cfg (op :: m :: more) = .ok (mk (.truncated .imm (m :: more)))) ∧
  ∀ s : State,
    (∀ b, Prints (exec (mk (.imm b)) s) s (s.cursor + 2) (movLine s name (hex2 b.toNat))) ∧
    (∀ m b, Prints (exec (mk (.modrmImm m b)) s) s (s.cursor + 3 + rmDispSize m.rm) (movLine s name (hex2 b.toNat))) ∧
    ∀ kind present, Truncates (exec (mk (.truncated kind present)) s) s (causeOf kind)

/-- One character of the grid of 30_encoding.md rule R64. -/
def gridChar : OpClass → Char
  | .sentinel => 'S'
  | .fixed _ => 'F'
  | .jump _ .one => '1'
  | .jump _ .two => '2'
  | .jump _ .eight => '8'
  | .dataMovement => 'M'
  | .unrecognized => '.'

/-- The grid of 30_encoding.md rule R64, one string a row; a jump is shown by its width alone. -/
def opcodeGrid : List String :=
  ["S...............", "................", "................", "................",
   "................", "................", "................", "1111111111111111"] ++
  ["........MMMM....", "............FFFF", "....FFFF..FFFFFF", "MMMMMMMMMMMMMMMM",
   "......MM....F.FF", "................", ".........281....", "F.FFFF..FFFFFF.."]

/-- The digits of 00_scope.md rule R13, in order. -/
def hexDigits : List Char := "0123456789ABCDEF".toList

/-- The number that digits denote in a base. -/
def valueOf (base : Nat) (ds : List Char) : Nat := ds.foldl (fun v c => base * v + hexDigits.idxOf c) 0

/-- `ds` is the digits of `v`, padded with zeros to at least `least` and no further. -/
def IsDigits (base least v : Nat) (ds : List Char) : Prop :=
  valueOf base ds = v ∧ least ≤ ds.length ∧ (∀ c ∈ ds, c ∈ hexDigits.take base) ∧
    (least < ds.length → ds.head? ≠ some '0')

/-- Two outcomes agree on all that the spec defines between steps. -/
def SameOutcome (a b : Host.Outcome State Fault Refusal) : Prop :=
  match a, b with
  | .next t, .next u => t.visible = u.visible ∧ t.stream = u.stream ∧ t.config = u.config
  | .fault r, .fault q => r = q
  | .refused r, .refused q => r = q
  | _, _ => False

end Sys2Proof.Claims

open Sys2Proof.Claims

/-- For every state in SCANNING, whatever the stream and the configuration, step answers a next state, its cursor,
fsm, cause and out are those the transcription of the spec's pseudocode (step, classify, moveStep, jumpStep,
raise) computes from stream positions, and the stream and configuration are unchanged. In the suppression check
at the end of moveStep the transcription compares markers, not texts: that reading is the model's
(notes/assumptions/7.md, DEDUCED), and differs from a comparison of texts only where UNRESOLVED spells a
register name. (R81, R82, R148, R181, R95). -/
def Obligations.StepFollowsThePseudocode : Prop :=
  ∀ s : State, s.fsm = .scanning →
    ∃ t, step s = .next t ∧ t.visible = Reference.step s ∧ t.stream = s.stream ∧ t.config = s.config

/-- If State.Inv holds and step answers a next state, State.Inv holds of it: canonical stream, cursor in 0..N,
halted exactly when there is a cause, EXHAUSTED only at N, a truncated run inside the stream, Line offsets
strictly increasing and before the cursor, the Diagnostic last and only after a truncation. (R23, R32, R33, R94,
R96, R221, R223). -/
def Obligations.InvariantKeptByEveryStep : Prop :=
  ∀ s t : State, s.Inv → step s = .next t → t.Inv

/-- State.reset satisfies State.Inv; so does every state that loading bytes into it gives; so does the reset input
applied to any state whose stream is in canonical form. (R35, R240, R242). -/
def Obligations.LoadedResetStatesAreInvariant : Prop :=
  State.reset.Inv ∧ (∀ bs, (State.reset.loadStream bs).Inv) ∧ ∀ s : State, s.stream.wf → s.applyReset.Inv

/-- For every configuration and every stream of N bytes, running from the reset state with them loaded reaches,
after at most N + 1 steps that all answer next states, a HALTED state; its cause is EXHAUSTED with the cursor at
N and no Diagnostic, or a truncation with the cursor inside the stream and exactly one Diagnostic, last. (R246,
R96, R221, R223). -/
def Obligations.RunHaltsWithinStreamLengthPlusOne : Prop :=
  ∀ (cfg : Configuration) (bs : List Byte), ∃ k t, k ≤ bs.length + 1 ∧
    Host.Core.run core k ({ State.reset with config := cfg }.loadStream bs) = .next t ∧ t.fsm = .halted ∧
    ((t.cause = .exhausted ∧ t.cursor = bs.length ∧ .diagnostic ∉ t.out) ∨
     (t.cause.isTruncation = true ∧ t.cursor < bs.length ∧
        ∃ lines, t.out = lines ++ [.diagnostic] ∧ .diagnostic ∉ lines))

/-- For every configuration, every well-formed instruction that is complete (every constructor, every operand at
every value), and any bytes after it, decode of its encoding followed by those bytes is that instruction. (R44,
R56, R57, R58, R60, R61, R62, R63). -/
def Obligations.DecodeReadsBackEveryCompleteEncoding : Prop :=
  ∀ (cfg : Configuration) (i : Instr) (rest : List Byte),
    i.wellFormed cfg = true → i.complete = true → decode cfg (encode i ++ rest) = .ok i

/-- For every configuration and every well-formed instruction, complete or cut off by the end of the stream, decode
of exactly its encoding is that instruction. (R56, R174, R182). -/
def Obligations.DecodeReadsBackEncodingsAtStreamEnd : Prop :=
  ∀ (cfg : Configuration) (i : Instr), i.wellFormed cfg = true → decode cfg (encode i) = .ok i

/-- For every configuration and bytes, if decode gives an instruction, it is well formed for the configuration and
its encoding is a prefix of the bytes; if it is cut off by the end of the stream, its encoding is all of them.
(R56, R58, R64). -/
def Obligations.DecodedInstructionsAreWellFormedPrefixes : Prop :=
  ∀ (cfg : Configuration) (bs : List Byte) (i : Instr), decode cfg bs = .ok i →
    i.wellFormed cfg = true ∧ encode i <+: bs ∧ (i.complete = false → encode i = bs)

/-- In SCANNING with a byte at the cursor, if the rest of the stream from the cursor decodes to an instruction, step
is exec of that instruction at that state: nothing is added around exec. (R80, R81). -/
def Obligations.StepRunsTheDecodedInstruction : Prop :=
  ∀ (s : State) (i : Instr), s.Ready → decode s.config (s.stream.bytesFrom s.cursor) = .ok i → step s = exec i s

/-- One encoding of each format, written in bits from 30_encoding.md, decodes under the default configuration (MOVIR
also under CONSUME) to the instruction it stands for. (R56, R57, R58). -/
def Obligations.SampleWordsDecodeAsEncoded : Prop :=
  decode defaultConfiguration [0b00000000] = .ok (.sentinel 0) ∧
    decode defaultConfiguration [0b10010000] = .ok (.unrecognized 0x90) ∧
    decode defaultConfiguration [0b11110100, 0b11110100] = .ok .hlt ∧
    decode defaultConfiguration [0b01110100, 0b00000010] = .ok (.je (.rel8 2)) ∧
    decode defaultConfiguration [0b11101001, 0b00000000, 0b00000001] = .ok (.jmp (.rel16 0x100)) ∧
    decode defaultConfiguration [0b11101010, 1, 0, 0, 0, 0, 0, 0, 0b10000000] = .ok (.jmpFar (.far64 0x8000000000000001)) ∧
    decode defaultConfiguration [0b10001011, 0b00011110, 0b00110100, 0b00010010] =
      .ok (.mov8B (.modrm { reg := 0b011, rm := .direct 0x1234 })) ∧
    decode defaultConfiguration [0b11000110, 0b01000110, 0b11111110, 0b10000000] =
      .ok (.movC6 (.modrmImm { reg := 0b000, rm := .disp8 0b110 0xFE } 0x80)) ∧
    decode defaultConfiguration [0b10110000, 0b00000101] = .ok (.movB0 (.imm 5)) ∧
    decode consumeConfiguration [0b10110000, 0b11000000, 0b00000101] =
      .ok (.movB0 (.modrmImm { reg := 0b000, rm := .reg 0b000 } 5))

/-- In SCANNING, if the length R59 gives for the byte at the cursor and the byte after it fits in the stream, the
step goes on scanning with the cursor advanced by exactly that length. (R59). -/
def Obligations.LengthIsToldByOpcodeAndModRm : Prop :=
  ∀ s : State, s.fsm = .scanning →
    s.cursor + lengthFromOpcode s.config (s.stream.cell s.cursor) (s.stream.cell (s.cursor + 1)) ≤ s.stream.length →
    ∃ t, step s = .next t ∧ t.fsm = .scanning ∧
      t.cursor = s.cursor + lengthFromOpcode s.config (s.stream.cell s.cursor) (s.stream.cell (s.cursor + 1))

/-- For every ModRM byte followed by exactly its displacement bytes, REG is bits 5 to 3 and the operand is the one
the table of R58 gives for bits 7 and 6 and bits 2 to 0, its displacement the little-endian value of the bytes.
(R57, R58). -/
def Obligations.ModRmFieldsAndDisplacement : Prop :=
  ∀ (m : Byte) (disp : List Byte), disp.length = dispSize m →
    (dispSize m = if m.toNat / 64 = 0 then (if m.toNat % 8 = 6 then 2 else 0) else if m.toNat / 64 = 1 then 1
      else if m.toNat / 64 = 2 then 2 else 0) ∧
    (parseModRm m disp).reg.toNat = m.toNat / 8 % 8 ∧
    match (parseModRm m disp).rm with
    | .reg r => m.toNat / 64 = 3 ∧ r.toNat = m.toNat % 8
    | .direct a => m.toNat / 64 = 0 ∧ m.toNat % 8 = 6 ∧ a.toNat = leNat disp
    | .indirect r => m.toNat / 64 = 0 ∧ m.toNat % 8 ≠ 6 ∧ r.toNat = m.toNat % 8
    | .disp8 r d => m.toNat / 64 = 1 ∧ r.toNat = m.toNat % 8 ∧ [d] = disp
    | .disp16 r d => m.toNat / 64 = 2 ∧ r.toNat = m.toNat % 8 ∧ d.toNat = leNat disp

/-- Running the sentinel instruction, in every state, only advances the cursor by one; and from any scanning state,
if the n bytes at the cursor are all the configuration's sentinel, n steps advance the cursor by n and append no
record. (R83). -/
def Obligations.SentinelRunsAreSkippedSilently : Prop :=
  (∀ (s : State) (op : Byte), Prints (exec (.sentinel op) s) s (s.cursor + 1) []) ∧
    ∀ (n : Nat) (s : State), s.fsm = .scanning →
      (∀ k, k < n → s.stream.byteAt (s.cursor + k) = some s.config.sentinel) →
      Prints (Host.Core.run core n s) s (s.cursor + n) []

/-- Running the unrecognized-byte instruction, in every state, only advances the cursor by one; and a step at a byte
that is not the sentinel, no key of FIXED_TABLE and not in MOV_SET does the same, under every configuration.
(R86). -/
def Obligations.UnrecognizedBytesAreSkippedSilently : Prop :=
  (∀ (s : State) (op : Byte), Prints (exec (.unrecognized op) s) s (s.cursor + 1) []) ∧
    ∀ (s : State) (op : Byte), s.Ready → s.stream.byteAt s.cursor = some op → op ≠ s.config.sentinel →
      s.config.fixedTable.lookup op = none → op ∉ s.config.movSet → Prints (step s) s (s.cursor + 1) []

/-- For each of PUSHF, POPF, SAHF, LAHF, CMC, CLC, STC, CLI, STI, CLD, STD: its default mnemonic, that its byte is a
fixed-operand opcode decoded alone whatever follows, and that running it, in every state whose FIXED_TABLE has a
mnemonic for it, appends exactly the Line of its offset and that mnemonic, advances the cursor by one and
changes nothing else. (R100, R101, R102, R103, R121, R122, R123, R124, R125, R126, R127). -/
def Obligations.FlagInstructionsPrintTheirMnemonic : Prop :=
  FixedRule 0x9C "PUSHF" .pushf ∧
    FixedRule 0x9D "POPF" .popf ∧
    FixedRule 0x9E "SAHF" .sahf ∧
    FixedRule 0x9F "LAHF" .lahf ∧
    FixedRule 0xF5 "CMC" .cmc ∧
    FixedRule 0xF8 "CLC" .clc ∧
    FixedRule 0xF9 "STC" .stc ∧
    FixedRule 0xFA "CLI" .cli ∧
    FixedRule 0xFB "STI" .sti ∧
    FixedRule 0xFC "CLD" .cld ∧
    FixedRule 0xFD "STD" .std

/-- For each of MOVSB, MOVSW, CMPSB, CMPSW, STOSB, STOSW, LODSB, LODSW, SCASB, SCASW: its default mnemonic, that its
byte is a fixed-operand opcode decoded alone whatever follows, and that running it, in every state whose
FIXED_TABLE has a mnemonic for it, appends exactly the Line of its offset and that mnemonic, advances the cursor
by one and changes nothing else. (R104, R105, R106, R107, R108, R109, R110, R111, R112, R113). -/
def Obligations.StringInstructionsPrintTheirMnemonic : Prop :=
  FixedRule 0xA4 "MOVSB" .movsb ∧
    FixedRule 0xA5 "MOVSW" .movsw ∧
    FixedRule 0xA6 "CMPSB" .cmpsb ∧
    FixedRule 0xA7 "CMPSW" .cmpsw ∧
    FixedRule 0xAA "STOSB" .stosb ∧
    FixedRule 0xAB "STOSW" .stosw ∧
    FixedRule 0xAC "LODSB" .lodsb ∧
    FixedRule 0xAD "LODSW" .lodsw ∧
    FixedRule 0xAE "SCASB" .scasb ∧
    FixedRule 0xAF "SCASW" .scasw

/-- For each of INT3, INTO, IRET, LOCK, REPNE, REP, HLT: its default mnemonic, that its byte is a fixed-operand
opcode decoded alone whatever follows, and that running it, in every state whose FIXED_TABLE has a mnemonic for
it, appends exactly the Line of its offset and that mnemonic, advances the cursor by one and changes nothing
else. (R114, R115, R116, R117, R118, R119, R120). -/
def Obligations.InterruptPrefixAndHaltOpcodesPrintTheirMnemonic : Prop :=
  FixedRule 0xCC "INT3" .int3 ∧
    FixedRule 0xCE "INTO" .into ∧
    FixedRule 0xCF "IRET" .iret ∧
    FixedRule 0xF0 "LOCK" .lock ∧
    FixedRule 0xF2 "REPNE" .repne ∧
    FixedRule 0xF3 "REP" .rep ∧
    FixedRule 0xF4 "HLT" .hlt

/-- For every configuration: a step at a byte that is a key of FIXED_TABLE, no key of JUMP_WIDTH and not the
sentinel appends exactly the Line of its offset and mnemonic with no operands and advances by one; and the
instruction of an added opcode runs so in every state whose FIXED_TABLE has a mnemonic for it. (R84). -/
def Obligations.EveryFixedOpcodePrintsUnmodified : Prop :=
  (∀ (s : State) (op : Byte) (mn : String), s.Ready → s.stream.byteAt s.cursor = some op → op ≠ s.config.sentinel →
      s.config.fixedTable.lookup op = some mn → s.config.jumpWidth.lookup op = none →
      Prints (step s) s (s.cursor + 1) [.line s.cursor mn none]) ∧
    ∀ (s : State) (op : Byte) (mn : String), s.config.fixedTable.lookup op = some mn →
      Prints (exec (.fixedOp op) s) s (s.cursor + 1) [.line s.cursor mn none]

/-- For each of JO, JNO, JB, JAE, JE, JNE, JBE, JA: its default mnemonic and width 1, what it decodes to with and
without its offset byte, and that running it appends exactly one Line, the mnemonic with the target start + 2 +
sign-extended offset, and moves the cursor by two, or, without the offset byte, the Line with the target start,
moves the cursor to N and emits no Diagnostic. (R190, R191, R192, R193, R194, R195, R196, R197). -/
def Obligations.ConditionalJumpsOverflowToAbove : Prop :=
  ShortJumpRule 0x70 "JO" .jo ∧
    ShortJumpRule 0x71 "JNO" .jno ∧
    ShortJumpRule 0x72 "JB" .jb ∧
    ShortJumpRule 0x73 "JAE" .jae ∧
    ShortJumpRule 0x74 "JE" .je ∧
    ShortJumpRule 0x75 "JNE" .jne ∧
    ShortJumpRule 0x76 "JBE" .jbe ∧
    ShortJumpRule 0x77 "JA" .ja

/-- For each of JS, JNS, JP, JNP, JL, JGE, JLE, JG: its default mnemonic and width 1, what it decodes to with and
without its offset byte, and that running it appends exactly one Line, the mnemonic with the target start + 2 +
sign-extended offset, and moves the cursor by two, or, without the offset byte, the Line with the target start,
moves the cursor to N and emits no Diagnostic. (R198, R199, R200, R201, R202, R203, R204, R205). -/
def Obligations.ConditionalJumpsSignToGreater : Prop :=
  ShortJumpRule 0x78 "JS" .js ∧
    ShortJumpRule 0x79 "JNS" .jns ∧
    ShortJumpRule 0x7A "JP" .jp ∧
    ShortJumpRule 0x7B "JNP" .jnp ∧
    ShortJumpRule 0x7C "JL" .jl ∧
    ShortJumpRule 0x7D "JGE" .jge ∧
    ShortJumpRule 0x7E "JLE" .jle ∧
    ShortJumpRule 0x7F "JG" .jg

/-- JMP SHORT as a short jump; JMP with a little-endian field of two bytes, sign-extended, and target start + 3 +
offset; JMP FAR with eight bytes, unsigned, and target start + 9 + field; with fewer bytes than the field each
prints the start as target and moves the cursor to N. (R213, R214, R215). -/
def Obligations.UnconditionalJumpsPrintTheirTarget : Prop :=
  ShortJumpRule 0xEB "JMP SHORT" .jmpShort ∧
    (defaultConfiguration.fixedTable.lookup 0xE9 = some "JMP" ∧ isJumpOpcode defaultConfiguration 0xE9 .two = true ∧
      (∀ cfg, isJumpOpcode cfg 0xE9 .two = true →
        (∀ lo hi rest, decode cfg (0xE9 :: lo :: hi :: rest) = .ok (.jmp (.rel16 (hi ++ lo)))) ∧
        ∀ present, present.length < 2 → decode cfg (0xE9 :: present) = .ok (.jmp (.short .two present))) ∧
      ∀ (s : State) (m : String), s.config.fixedTable.lookup 0xE9 = some m →
        (∀ h : BitVec 16, Prints (exec (.jmp (.rel16 h)) s) s (s.cursor + 3)
          [.line s.cursor (m ++ " " ++ shex (s.cursor + 3 + Reference.offset 2 h.toNat)) none]) ∧
        ∀ present, Prints (exec (.jmp (.short .two present)) s) s s.stream.length
          [.line s.cursor (m ++ " " ++ shex s.cursor) none]) ∧
    (defaultConfiguration.fixedTable.lookup 0xEA = some "JMP FAR" ∧ isJumpOpcode defaultConfiguration 0xEA .eight = true ∧
      (∀ cfg, isJumpOpcode cfg 0xEA .eight = true →
        (∀ f0 f1 f2 f3 f4 f5 f6 f7 rest, decode cfg (0xEA :: f0 :: f1 :: f2 :: f3 :: f4 :: f5 :: f6 :: f7 :: rest) =
          .ok (.jmpFar (.far64 (f7 ++ f6 ++ f5 ++ f4 ++ f3 ++ f2 ++ f1 ++ f0)))) ∧
        ∀ present, present.length < 8 → decode cfg (0xEA :: present) = .ok (.jmpFar (.short .eight present))) ∧
      ∀ (s : State) (m : String), s.config.fixedTable.lookup 0xEA = some m →
        (∀ q : BitVec 64, Prints (exec (.jmpFar (.far64 q)) s) s (s.cursor + 9)
          [.line s.cursor (m ++ " " ++ shex (s.cursor + 9 + q.toNat)) none]) ∧
        ∀ present, Prints (exec (.jmpFar (.short .eight present)) s) s s.stream.length
          [.line s.cursor (m ++ " " ++ shex s.cursor) none])

/-- For each jump constructor (the nineteen rows and an added opcode), every state whose FIXED_TABLE has a mnemonic
for its opcode and every offset field: a complete field of w bytes gives the Line with target start + 1 + w +
offset and the cursor past the field; a short one gives the Line with target start and the cursor at N. (R180,
R181, R182, R184). -/
def Obligations.EveryJumpConstructorAtEveryWidth : Prop :=
  ∀ row, row ∈ jumpRows ∨ (∃ op, row = (op, Instr.jumpOp op)) →
    ∀ (s : State) (m : String) (f : JumpField), s.config.fixedTable.lookup row.1 = some m →
      (f.complete = true → Prints (exec (row.2 f) s) s (s.cursor + 1 + f.width.bytes)
        [.line s.cursor (m ++ " " ++ shex (s.cursor + 1 + f.width.bytes +
          Reference.offset f.width.bytes (leNat f.encoding))) none]) ∧
      (f.complete = false → Prints (exec (row.2 f) s) s s.stream.length
        [.line s.cursor (m ++ " " ++ shex s.cursor) none])

/-- For every configuration, a step at a byte that is a key of FIXED_TABLE and of JUMP_WIDTH with width w: if w
bytes follow, the Line has target start + w + 1 + the little-endian field (sign-extended for w = 1 and 2) and
the cursor moves past the field; if not, the Line has target start and the cursor moves to N. (R181). -/
def Obligations.JumpStepReadsItsFieldFromTheStream : Prop :=
  ∀ (s : State) (op : Byte) (mn : String) (w : JumpWidth), s.Ready → s.stream.byteAt s.cursor = some op →
    op ≠ s.config.sentinel → s.config.fixedTable.lookup op = some mn → s.config.jumpWidth.lookup op = some w →
    (s.cursor + 1 + w.bytes ≤ s.stream.length →
      Prints (step s) s (s.cursor + 1 + w.bytes)
        [.line s.cursor (mn ++ " " ++ shex (s.cursor + w.bytes + 1 +
          Reference.offset w.bytes (Reference.le s.stream (s.cursor + 1) w.bytes))) none]) ∧
    (s.stream.length < s.cursor + 1 + w.bytes →
      Prints (step s) s s.stream.length [.line s.cursor (mn ++ " " ++ shex s.cursor) none])

/-- From a scanning state at a jump opcode of width w with fewer than w bytes after it, two steps append exactly the
jump's Line with target start (no Diagnostic), leave the cursor at N and end HALTED with cause EXHAUSTED. (R182,
R227). -/
def Obligations.JumpShortfallEndsTheRunExhausted : Prop :=
  ∀ (s : State) (op : Byte) (mn : String) (w : JumpWidth), s.Ready → s.stream.byteAt s.cursor = some op →
    op ≠ s.config.sentinel → s.config.fixedTable.lookup op = some mn → s.config.jumpWidth.lookup op = some w →
    s.stream.length < s.cursor + 1 + w.bytes →
    Prints (step s) s s.stream.length [.line s.cursor (mn ++ " " ++ shex s.cursor) none] ∧
    ∃ t, Host.Core.run core 2 s = .next t ∧ t.fsm = .halted ∧ t.cause = .exhausted ∧ t.cursor = s.stream.length ∧
      t.out = s.out ++ [.line s.cursor (mn ++ " " ++ shex s.cursor) none]

/-- For a jump at i, the target is i + 1 + w + off: within i - 126 and i + 129 for a 1-byte field, within i - 32765
and i + 32770 for a 2-byte field, and within i + 9 and i + 2^64 + 8 for an 8-byte field; each bound is reached.
(R183). -/
def Obligations.JumpTargetRanges : Prop :=
  ∀ i : Nat,
    (∀ b : BitVec 8, jumpTarget i (.rel8 b) = i + 1 + 1 + Reference.offset 1 b.toNat ∧
      (i : Int) - 126 ≤ jumpTarget i (.rel8 b) ∧ jumpTarget i (.rel8 b) ≤ i + 129) ∧
    (∀ h : BitVec 16, jumpTarget i (.rel16 h) = i + 1 + 2 + Reference.offset 2 h.toNat ∧
      (i : Int) - 32765 ≤ jumpTarget i (.rel16 h) ∧ jumpTarget i (.rel16 h) ≤ i + 32770) ∧
    (∀ q : BitVec 64, jumpTarget i (.far64 q) = i + 1 + 8 + q.toNat ∧
      (i : Int) + 9 ≤ jumpTarget i (.far64 q) ∧ jumpTarget i (.far64 q) ≤ i + 2 ^ 64 + 8) ∧
    jumpTarget i (.rel8 0x80) = i - 126 ∧ jumpTarget i (.rel8 0x7F) = i + 129 ∧
    jumpTarget i (.rel16 0x8000) = i - 32765 ∧ jumpTarget i (.rel16 0x7FFF) = i + 32770 ∧
    jumpTarget i (.far64 0) = i + 9 ∧ jumpTarget i (.far64 0xFFFFFFFFFFFFFFFF) = i + 2 ^ 64 + 8

/-- For each of the four opcodes: what it decodes to with every ModRM operand and at each truncation point; running
it with complete operands appends the Line of MOV_MNEMONIC, the REG register and the RM operand and moves the
cursor by 2 plus the displacement; running it truncated halts the run with the missing field's cause. (R150,
R151, R152, R153). -/
def Obligations.RegisterMemoryMovesPrintRegThenRm : Prop :=
  MovRmRule 0x88 .mov88 ∧ MovRmRule 0x89 .mov89 ∧ MovRmRule 0x8A .mov8A ∧ MovRmRule 0x8B .mov8B ∧
    isMovOpcode defaultConfiguration 0x88 = true ∧ isMovOpcode defaultConfiguration 0x89 = true ∧
    isMovOpcode defaultConfiguration 0x8A = true ∧ isMovOpcode defaultConfiguration 0x8B = true

/-- For both opcodes: what they decode to with every ModRM operand and immediate and at each truncation point;
running them complete appends the Line of MOV_MNEMONIC, the REG register and the RM operand, a space and the
immediate, and moves the cursor by 3 plus the displacement; running them truncated halts the run with the
missing field's cause. (R154, R155). -/
def Obligations.ImmediateToMemoryMovesAppendTheImmediate : Prop :=
  MovImRule 0xC6 .movC6 ∧ MovImRule 0xC7 .movC7 ∧
    isMovOpcode defaultConfiguration 0xC6 = true ∧ isMovOpcode defaultConfiguration 0xC7 = true

/-- For each of the eight opcodes, under SKIP and under CONSUME: what it decodes to, complete and at each truncation
point; running it complete appends the Line of MOV_MNEMONIC, the register of its low three bits and the
immediate, and moves the cursor by 2 (SKIP) or by 3 plus the displacement (CONSUME); running it truncated halts
the run with the missing field's cause. (R156, R157, R158, R159, R160, R161, R162, R163). -/
def Obligations.ImmediateToByteRegisterMoves : Prop :=
  MovIrRule 0xB0 "AX" .movB0 ∧
    MovIrRule 0xB1 "CX" .movB1 ∧
    MovIrRule 0xB2 "DX" .movB2 ∧
    MovIrRule 0xB3 "BX" .movB3 ∧
    MovIrRule 0xB4 "SP" .movB4 ∧
    MovIrRule 0xB5 "BP" .movB5 ∧
    MovIrRule 0xB6 "SI" .movB6 ∧
    MovIrRule 0xB7 "DI" .movB7 ∧
    (∀ op ∈ [(0xB0 : Byte), (0xB1 : Byte), (0xB2 : Byte), (0xB3 : Byte), (0xB4 : Byte), (0xB5 : Byte), (0xB6 : Byte), (0xB7 : Byte)],
      isMovOpcode defaultConfiguration op = true ∧ isMovOpcode consumeConfiguration op = true)

/-- For each of the eight opcodes, under SKIP and under CONSUME: what it decodes to, complete and at each truncation
point; running it complete appends the Line of MOV_MNEMONIC, the register of its low three bits and the
immediate, and moves the cursor by 2 (SKIP) or by 3 plus the displacement (CONSUME); running it truncated halts
the run with the missing field's cause. (R164, R165, R166, R167, R168, R169, R170, R171). -/
def Obligations.ImmediateToWordRegisterMoves : Prop :=
  MovIrRule 0xB8 "AX" .movB8 ∧
    MovIrRule 0xB9 "CX" .movB9 ∧
    MovIrRule 0xBA "DX" .movBA ∧
    MovIrRule 0xBB "BX" .movBB ∧
    MovIrRule 0xBC "SP" .movBC ∧
    MovIrRule 0xBD "BP" .movBD ∧
    MovIrRule 0xBE "SI" .movBE ∧
    MovIrRule 0xBF "DI" .movBF ∧
    (∀ op ∈ [(0xB8 : Byte), (0xB9 : Byte), (0xBA : Byte), (0xBB : Byte), (0xBC : Byte), (0xBD : Byte), (0xBE : Byte), (0xBF : Byte)],
      isMovOpcode defaultConfiguration op = true ∧ isMovOpcode consumeConfiguration op = true)

/-- For every opcode that is none of the 22 data-movement rows: under a configuration whose MOV_SET holds it (and
that does not classify it earlier), it follows the rule of the register/memory moves. (R87, R148, R172). -/
def Obligations.AddedMoveOpcodesTakeTheModRmPath : Prop :=
  ∀ op : Byte, op ∉ movOpcodes → MovRmRule op (.movOp op)

/-- Under every configuration: a register by its name; a direct address as four hex digits in brackets; the base
expression in brackets; the base with a signed 8-bit displacement as sign and two digits of magnitude, zero
printed; the base with an unsigned 16-bit displacement of four digits. (R27, R28, R142, R143, R144, R145, R146). -/
def Obligations.RmOperandTexts : Prop :=
  ∀ (cfg : Configuration) (rm : BitVec 3) (d : BitVec 8) (h : BitVec 16) (reg base : String),
    (["AX", "CX", "DX", "BX", "SP", "BP", "SI", "DI"] : List String)[rm.toNat]? = some reg →
    (["BX+SI", "BX+DI", "BP+SI", "BP+DI", "SI", "DI", "BP", "BX"] : List String)[rm.toNat]? = some base →
    rmText cfg (.reg rm) = reg ∧ rmText cfg (.direct h) = "[" ++ hex4 h.toNat ++ "]" ∧
    rmText cfg (.indirect rm) = "[" ++ base ++ "]" ∧
    (d.toNat < 128 → rmText cfg (.disp8 rm d) = "[" ++ base ++ ("+" ++ hex2 d.toNat) ++ "]") ∧
    (128 ≤ d.toNat → rmText cfg (.disp8 rm d) = "[" ++ base ++ ("-" ++ hex2 (256 - d.toNat)) ++ "]") ∧
    rmText cfg (.disp16 rm h) = "[" ++ base ++ "+" ++ hex4 h.toNat ++ "]"

/-- Under every configuration, regName of 0 to 7 is AX, CX, DX, BX, SP, BP, SI, DI, and of any larger index the
configuration's unresolved marker. (R27). -/
def Obligations.RegisterTableWithFallback : Prop :=
  ∀ cfg : Configuration,
    (List.range 8).map (regName cfg) = ["AX", "CX", "DX", "BX", "SP", "BP", "SI", "DI"] ∧
    ∀ k, 8 ≤ k → regName cfg k = cfg.unresolved

/-- In every state, printing a data movement whose two operands are both the 'unresolved' marker appends no record
and moves the cursor past the bytes consumed; and under every configuration (its UNRESOLVED text may spell
anything) running any complete data-movement instruction, row or added opcode, appends exactly one Line and
moves the cursor past its bytes. (R149). -/
def Obligations.MoveLinesAreNotSuppressed : Prop :=
  (∀ (s : State) (n : Nat), Prints (.next (printMov .unresolved .unresolved n s)) s (s.cursor + 1 + n) []) ∧
    ∀ (s : State) (row : Byte × (MovOperands → Instr)) (o : MovOperands),
      row ∈ movRows ∨ (∃ op, row = (op, Instr.movOp op)) → o.complete = true →
      ∃ op1 op2, Prints (exec (row.2 o) s) s (s.cursor + 1 + o.encoding.length)
        [.line s.cursor s.config.movMnemonic (some (op1, op2))]

/-- In a state that satisfies State.Inv, a step's next state has cause EXHAUSTED exactly when the cursor was at N;
TRUNC_MODRM exactly for a ModRM-reading data movement without its ModRM byte; TRUNC_DISP exactly when the ModRM
byte is there and its displacement is not fully; TRUNC_IMM exactly for an immediate opcode whose every earlier
field is there and whose immediate is not; the cursor is kept by all four and a Diagnostic recorded by the last
three; and the numeric codes are 0 to 4. (R222, R224). -/
def Obligations.TruncationNamesTheFirstMissingField : Prop :=
  ([Cause.none, .exhausted, .truncModrm, .truncDisp, .truncImm].map Cause.code = [0, 1, 2, 3, 4]) ∧
    ∀ s t : State, s.Inv → step s = .next t →
      let op := s.stream.cell s.cursor
      let d := dispSize (s.stream.cell (s.cursor + 1))
      let move := isMovOpcode s.config op = true
      let reads := readsModRm s.config.immregModrm op = true
      let imm := isImmReg op = true ∨ isImmMem op = true
      let n := s.stream.length
      let i := s.cursor
      (t.cause = .exhausted ↔ i = n) ∧
      (t.cause = .truncModrm ↔ i < n ∧ move ∧ reads ∧ n < i + 2) ∧
      (t.cause = .truncDisp ↔ i < n ∧ move ∧ reads ∧ i + 2 ≤ n ∧ n < i + 2 + d) ∧
      (t.cause = .truncImm ↔ i < n ∧ move ∧ imm ∧
        ((reads ∧ i + 2 + d ≤ n ∧ n < i + 2 + d + 1) ∨ (¬reads ∧ n < i + 2))) ∧
      (t.cause ≠ .none → t.cursor = i) ∧
      (t.cause.isTruncation = true → t.out = s.out ++ [.diagnostic])

/-- For every state and each missing field, the shared truncation operation appends one Diagnostic, sets the field's
cause and HALTED, and leaves the cursor, the stream and the configuration. (R221). -/
def Obligations.TruncationHaltsAtTheStart : Prop :=
  ∀ (s : State) (kind : TruncKind), Truncates (.next (s.raiseTruncated kind)) s (causeOf kind)

/-- From a state that satisfies State.Inv and is not at the end of the stream, if a step's next state is halted, the
byte at the cursor is a data-movement opcode and the cause is a truncation. (R220, R224, R227, R228). -/
def Obligations.EventsAreRaisedByClassAlone : Prop :=
  ∀ s t : State, s.Inv → s.cursor < s.stream.length → step s = .next t → t.fsm = .halted →
    isMovOpcode s.config (s.stream.cell s.cursor) = true ∧ t.cause.isTruncation = true

/-- Whatever the state, if step answers a next state then out is as before or has exactly one record appended: a
Line whose offset is the cursor before, or a Diagnostic. (R24, R80, R90, R94). -/
def Obligations.StepAppendsAtMostOneRecord : Prop :=
  ∀ s t : State, step s = .next t →
    t.out = s.out ∨ t.out = s.out ++ [.diagnostic] ∨ ∃ mn ops, t.out = s.out ++ [.line s.cursor mn ops]

/-- From a cursor in 0..N, a step's next state has its cursor in 0..N and not before; strictly after unless the step
halts; exactly past the encoding of the decoded instruction if that is complete; at N if it is a jump with a
short field. (R21, R22, R33, R185). -/
def Obligations.CursorOnlyMovesForward : Prop :=
  ∀ s t : State, s.cursor ≤ s.stream.length → step s = .next t →
    t.cursor ≤ t.stream.length ∧ s.cursor ≤ t.cursor ∧ (t.fsm ≠ .halted → s.cursor < t.cursor) ∧
    ∀ i, decode s.config (s.stream.bytesFrom s.cursor) = .ok i →
      (i.complete = true → t.cursor = s.cursor + (encode i).length) ∧
      (i.complete = false → t.fsm ≠ .halted → t.cursor = s.stream.length)

/-- For every complete instruction, if exec answers a next state, the cursor is past its bytes, at most one record
is appended, and fsm, cause, stream (every byte of it) and configuration are unchanged. (R26, R40, R51). -/
def Obligations.CompleteInstructionsTouchCursorAndOutputOnly : Prop :=
  ∀ (i : Instr) (s t : State), i.complete = true → exec i s = .next t →
    ∃ rs : List Record, rs.length ≤ 1 ∧ Prints (exec i s) s (s.cursor + (encode i).length) rs

/-- Whatever the state, if step answers a next state, every read of the stream, its length, and the configuration
are as before. (R20, R29, R40, R52). -/
def Obligations.StreamAndConfigurationAreNeverWritten : Prop :=
  ∀ s t : State, step s = .next t →
    t.stream = s.stream ∧ t.config = s.config ∧ ∀ a, t.stream.byteAt a = s.stream.byteAt a

/-- Changing the latches (and the model's draw counter) of a state in any way changes nothing of a step's outcome
but the latches and the counter. (R25, R35). -/
def Obligations.LatchesCannotMatter : Prop :=
  ∀ (s : State) (l : Latches) (d : Nat), SameOutcome (step { s with latches := l, draws := d }) (step s)

/-- For every state in SCANNING, whatever its cursor, stream and configuration, step answers a next state. (R41,
R65, R95). -/
def Obligations.ScanningAlwaysHasANextState : Prop :=
  ∀ s : State, s.fsm = .scanning → ∃ t, step s = .next t

/-- For every instruction that is well formed for a state's configuration, exec answers a next state. (R81, R128). -/
def Obligations.WellFormedInstructionsComplete : Prop :=
  ∀ (i : Instr) (s : State), i.wellFormed s.config = true → ∃ t, exec i s = .next t

/-- In HALTED step answers the fault `halted`, whatever the rest of the state. (R226). -/
def Obligations.HaltedHasNoStep : Prop :=
  ∀ s : State, s.fsm = .halted → step s = .fault .halted

/-- In SCANNING with the cursor at N, step answers a HALTED state with cause EXHAUSTED and the same cursor, records,
stream and configuration; an empty stream does so at the first step from reset. (R244). -/
def Obligations.ExhaustionHaltsWithoutARecord : Prop :=
  (∀ s : State, s.fsm = .scanning → s.cursor = s.stream.length →
      ∃ t, step s = .next t ∧ t.fsm = .halted ∧ t.cause = .exhausted ∧ t.cursor = s.cursor ∧ t.out = s.out ∧
        t.stream = s.stream ∧ t.config = s.config) ∧
    ∃ t, step (State.reset.loadStream []) = .next t ∧ t.fsm = .halted ∧ t.cause = .exhausted ∧ t.out = []

/-- For every configuration: the sentinel is the sentinel whatever table also holds it; another key of FIXED_TABLE
is a jump if it is a key of JUMP_WIDTH and a fixed opcode if not, even in MOV_SET; a byte that is no key of
FIXED_TABLE is a data movement if in MOV_SET and unrecognized if not, even with a JUMP_WIDTH. (R82, R88). -/
def Obligations.ClassificationOrder : Prop :=
  ∀ (cfg : Configuration) (op : Byte),
    (op = cfg.sentinel → classify cfg op = .sentinel) ∧
    (op ≠ cfg.sentinel →
      (∀ mn w, cfg.fixedTable.lookup op = some mn → cfg.jumpWidth.lookup op = some w → classify cfg op = .jump mn w) ∧
      (∀ mn, cfg.fixedTable.lookup op = some mn → cfg.jumpWidth.lookup op = none → classify cfg op = .fixed mn) ∧
      (cfg.fixedTable.lookup op = none → op ∈ cfg.movSet → classify cfg op = .dataMovement) ∧
      (cfg.fixedTable.lookup op = none → op ∉ cfg.movSet → classify cfg op = .unrecognized))

/-- The default configuration is well formed by R8, and the class of every byte value under it (with the width of a
jump) is the entry of the grid at its high and low nibble. (R7, R8, R64). -/
def Obligations.DefaultOpcodeGrid : Prop :=
  defaultConfiguration.wellFormed = true ∧
    ∀ op : Byte, (opcodeGrid[op.toNat / 16]?.bind fun row => row.toList[op.toNat % 16]?) =
      some (gridChar (classify defaultConfiguration op))

/-- Two configurations with the same sentinel, data-movement membership, fixed-table keys, jump widths and
IMMREG_MODRM decode every stream alike; the texts of the configuration do not matter. (R29, R69). -/
def Obligations.DecodingDependsOnKeysAndModeOnly : Prop :=
  ∀ a b : Configuration, a.sentinel = b.sentinel → (∀ op, op ∈ a.movSet ↔ op ∈ b.movSet) →
    (∀ op, (a.fixedTable.lookup op).isSome = (b.fixedTable.lookup op).isSome) →
    (∀ op, a.jumpWidth.lookup op = b.jumpWidth.lookup op) → a.immregModrm = b.immregModrm →
    ∀ bs, decode a bs = decode b bs

/-- State.reset has cursor 0, SCANNING, cause NONE and no records; the reset input, in any state (HALTED too), gives
these and leaves the stream and the configuration. (R240). -/
def Obligations.ResetValues : Prop :=
  (State.reset.cursor = 0 ∧ State.reset.fsm = .scanning ∧ State.reset.cause = .none ∧ State.reset.out = []) ∧
    ∀ s : State, s.applyReset.cursor = 0 ∧ s.applyReset.fsm = .scanning ∧ s.applyReset.cause = .none ∧
      s.applyReset.out = [] ∧ s.applyReset.stream = s.stream ∧ s.applyReset.config = s.config

/-- The status port shows the control state as 0, 1 or 2, the cause as 0 to 4, and the cursor; code 3 of the control
state is never shown. (R23, R30, R32). -/
def Obligations.StatusFieldsShowStateByCode : Prop :=
  [Fsm.scanning, .decodingOperand, .halted].map Fsm.code = [0, 1, 2] ∧
    [Cause.none, .exhausted, .truncModrm, .truncDisp, .truncImm].map Cause.code = [0, 1, 2, 3, 4] ∧
    ∀ s : State, s.status = { fsm := s.fsm.code, cause := s.cause.code, cursor := s.cursor } ∧ s.status.fsm ≠ 3

/-- hex2 and hex4 give 0x and exactly two and four uppercase hexadecimal digits of the value; hexmin2 gives 0x and
its digits padded to at least two; dec gives its decimal digits unpadded; shex gives hexmin2 of the magnitude,
with a minus sign when negative. (R13). -/
def Obligations.NumbersPrintAsTheirDigits : Prop :=
  (∀ v, v ≤ 255 → ∃ ds, hex2 v = "0x" ++ String.ofList ds ∧ IsDigits 16 2 v ds ∧ ds.length = 2) ∧
    (∀ v, v ≤ 65535 → ∃ ds, hex4 v = "0x" ++ String.ofList ds ∧ IsDigits 16 4 v ds ∧ ds.length = 4) ∧
    (∀ v, ∃ ds, hexmin2 v = "0x" ++ String.ofList ds ∧ IsDigits 16 2 v ds) ∧
    (∀ v, ∃ ds, dec v = String.ofList ds ∧ IsDigits 10 1 v ds) ∧
    ∀ v : Int, (0 ≤ v → shex v = hexmin2 v.toNat) ∧ (v < 0 → shex v = "-" ++ hexmin2 (-v).toNat)

/-- A Line's text is CS:, its decimal offset, three spaces, the mnemonic and, with operands, a space and the two
operands separated by a comma and a space, ended by one line feed; a Diagnostic's text is the configuration's
message ended by one line feed, with no offset. (R91, R92, R93). -/
def Obligations.RecordTexts : Prop :=
  ∀ (cfg : Configuration) (offset : Nat) (mn op1 op2 : String),
    Record.text cfg (.line offset mn none) = "CS:" ++ dec offset ++ "   " ++ mn ++ "\n" ∧
    Record.text cfg (.line offset mn (some (op1, op2))) =
      "CS:" ++ dec offset ++ "   " ++ (mn ++ " " ++ op1 ++ ", " ++ op2) ++ "\n" ∧
    Record.text cfg .diagnostic = cfg.truncMsg ++ "\n" ∧
    defaultConfiguration.truncMsg = "Error: instruction truncated at end of stream."

/-- For every stream, byteAt answers a byte at a position exactly when it is below N; hasRemaining(p, n) holds
exactly when p + n is at most N; and loading bytes gives a stream of their number that reads back as those
bytes. (R40, R41, R42, R242). -/
def Obligations.StreamReadsAndLength : Prop :=
  (∀ (m : Memory) (a : Nat), (m.byteAt a).isSome = true ↔ a < m.length) ∧
    (∀ (m : Memory) (p n : Nat), m.hasRemaining p n = true ↔ p + n ≤ m.length) ∧
    ∀ bs : List Byte, (Memory.ofBytes bs).length = bs.length ∧ ∀ a, (Memory.ofBytes bs).byteAt a = bs[a]?

/-- From every state in SCANNING that satisfies State.Inv: step answers a next state that satisfies State.Inv, of
the same stream, either HALTED or in SCANNING with a strictly greater cursor; and running at most N - cursor + 1
steps, all of which answer next states, reaches a HALTED state that satisfies State.Inv. (R33, R96, R246). -/
def Obligations.ScanningStepsDescendToAHalt : Prop :=
  ∀ s : State, s.Inv → s.fsm = .scanning →
    (∃ t, step s = .next t ∧ t.Inv ∧ t.stream = s.stream ∧
      (t.fsm = .halted ∨ (t.fsm = .scanning ∧ s.cursor < t.cursor))) ∧
    ∃ k t, k ≤ s.stream.length - s.cursor + 1 ∧ Host.Core.run core k s = .next t ∧ t.fsm = .halted ∧ t.Inv
end

