-- ==== Sys2Proof/Laws/Encoding.lean ====
section
/-! SUPPORT. The small lemmas of the encodings: little-endian fields, the ModRM byte, and how many bytes each operand form
has. -/

namespace Sys2Proof

open Sys2Proof.Machine (rmDispSize)

@[simp] theorem leBytes_length (w n : Nat) : (leBytes w n).length = w := by
  induction w generalizing n with
  | zero => rfl
  | succ w ih => simp [leBytes, ih]

/-- A little-endian field of `w` bytes is below 256 to the `w` (20_memory.md rule R44). -/
theorem leNat_lt (bs : List Byte) : leNat bs < 256 ^ bs.length := by
  induction bs with
  | nil => simp [leNat]
  | cons b bs ih =>
    have hb := b.isLt
    simp only [leNat, List.length_cons, Nat.pow_succ]
    omega

/-- Reading back the bytes of a number gives its low bytes. -/
theorem leNat_leBytes (w n : Nat) : leNat (leBytes w n) = n % 256 ^ w := by
  induction w generalizing n with
  | zero => simp [leBytes, leNat, Nat.mod_one]
  | succ w ih =>
    have hbyte : (BitVec.ofNat 8 n).toNat = n % 256 := BitVec.toNat_ofNat ..
    rw [leBytes, leNat, ih, hbyte, Nat.pow_succ, Nat.mul_comm (256 ^ w) 256, Nat.mod_mul]

/-- The bytes of the number that some bytes make are those bytes. -/
theorem leBytes_leNat (bs : List Byte) : leBytes bs.length (leNat bs) = bs := by
  induction bs with
  | nil => rfl
  | cons b bs ih =>
    have hb := b.isLt
    have hdiv : leNat (b :: bs) / 256 = leNat bs := by simp only [leNat]; omega
    rw [List.length_cons, leBytes, hdiv, ih]
    congr 1
    apply BitVec.eq_of_toNat_eq
    simp only [BitVec.toNat_ofNat, leNat]
    omega

theorem modField_modrmByte : ∀ (mod : BitVec 2) (reg rm : BitVec 3), modField (modrmByte mod reg rm) = mod := by decide

theorem regField_modrmByte : ∀ (mod : BitVec 2) (reg rm : BitVec 3), regField (modrmByte mod reg rm) = reg := by decide

theorem rmField_modrmByte : ∀ (mod : BitVec 2) (reg rm : BitVec 3), rmField (modrmByte mod reg rm) = rm := by decide

/-- The three fields make up the whole byte (30_encoding.md rule R57). -/
theorem modrmByte_fields : ∀ m : Byte, modrmByte (modField m) (regField m) (rmField m) = m := by decide

theorem dispSize_le (m : Byte) : dispSize m ≤ 2 := by
  unfold dispSize
  split
  · split <;> omega
  · split
    · omega
    · split <;> omega

theorem rmDispSize_le (rm : RmOperand) : rmDispSize rm ≤ 2 := by cases rm <;> simp [rmDispSize]

@[simp] theorem modRm_bytes_length (m : ModRm) : m.bytes.length = 1 + rmDispSize m.rm := by
  cases m with
  | mk reg rm => cases rm <;> simp [ModRm.bytes, rmDispSize]

/-- A complete offset field has the width's bytes. -/
theorem jumpField_encoding_length {f : JumpField} (h : f.complete = true) : f.encoding.length = f.width.bytes := by
  cases f <;> simp_all [JumpField.encoding, JumpField.width, JumpWidth.bytes, JumpField.complete]

theorem jumpWidth_bytes_le (w : JumpWidth) : w.bytes ≤ 8 := by cases w <;> decide

/-- A well-formed offset field, present or short, has at most the width's bytes. -/
theorem jumpField_encoding_le {f : JumpField} (h : f.wellFormed = true) : f.encoding.length ≤ f.width.bytes := by
  cases f with
  | short w present => exact Nat.le_of_lt (of_decide_eq_true h)
  | _ => simp [JumpField.encoding, JumpField.width, JumpWidth.bytes]

/-- Well-formed operands of a data movement have at most four bytes. -/
theorem movOperands_encoding_le {mode : ImmregModrm} {op : Byte} {o : MovOperands} (h : o.wellFormed mode op = true) :
    o.encoding.length ≤ 4 := by
  cases o with
  | modrm m => have := rmDispSize_le m.rm; simp [MovOperands.encoding]; omega
  | modrmImm m b => have := rmDispSize_le m.rm; simp [MovOperands.encoding]; omega
  | imm b => simp [MovOperands.encoding]
  | truncated kind present =>
    cases present with
    | nil => simp [MovOperands.encoding]
    | cons m more =>
      have := dispSize_le m
      cases kind <;> simp [MovOperands.wellFormed] at h <;> simp [MovOperands.encoding] <;> omega

/-- What the encoded-length family says of an instruction without operand bytes. -/
theorem one_byte (i : Instr) (h : i.operandBytes = []) :
    (encode i).head? = some i.opcode ∧ 1 ≤ (encode i).length ∧ (encode i).length ≤ 9 := by
  simp [encode, h]

/-- What it says of a jump. -/
theorem jump_bytes {cfg : Configuration} {op : Byte} (i : Instr) (f : JumpField) (hb : i.operandBytes = f.encoding)
    (h : jumpWellFormed cfg op f = true) :
    (encode i).head? = some i.opcode ∧ 1 ≤ (encode i).length ∧ (encode i).length ≤ 9 := by
  have hf : f.wellFormed = true := (Bool.and_eq_true_iff.1 h).2
  have := jumpField_encoding_le hf
  have := jumpWidth_bytes_le f.width
  simp only [encode, hb, List.head?_cons, List.length_cons, true_and]
  omega

/-- What it says of a data movement. -/
theorem mov_bytes {cfg : Configuration} {op : Byte} (i : Instr) (o : MovOperands) (hb : i.operandBytes = o.encoding)
    (h : movWellFormed cfg op o = true) :
    (encode i).head? = some i.opcode ∧ 1 ≤ (encode i).length ∧ (encode i).length ≤ 9 := by
  have ho : o.wellFormed cfg.immregModrm op = true := (Bool.and_eq_true_iff.1 h).2
  have := movOperands_encoding_le ho
  simp only [encode, hb, List.head?_cons, List.length_cons, true_and]
  omega

end Sys2Proof
end

