-- ==== Sys2Proof/Laws/Decode.lean ====
section
/-! SUPPORT. What classification and the parsers give, said once: the class of an opcode by the checks of WellFormed, the
ModRM byte taken apart and put together again, the offset field, and the nine bytes that are enough. -/

namespace Sys2Proof

/-! ### Classification -/

/-- A fixed-operand opcode is classified so (40_dispatch.md rule R82). -/
theorem classify_fixed {cfg : Configuration} {op : Byte} (h : isFixedOpcode cfg op = true) :
    ∃ mn, cfg.fixedTable.lookup op = some mn ∧ classify cfg op = .fixed mn := by
  simp only [isFixedOpcode, Bool.and_eq_true, bne_iff_ne, Option.isNone_iff_eq_none] at h
  obtain ⟨⟨hs, hf⟩, hw⟩ := h
  obtain ⟨mn, hf⟩ := Option.isSome_iff_exists.1 hf
  exact ⟨mn, hf, by simp only [classify, if_neg hs, hf, hw]⟩

/-- A jump opcode is classified so, with its width. -/
theorem classify_jump {cfg : Configuration} {op : Byte} {w : JumpWidth} (h : isJumpOpcode cfg op w = true) :
    ∃ mn, cfg.fixedTable.lookup op = some mn ∧ classify cfg op = .jump mn w := by
  simp only [isJumpOpcode, Bool.and_eq_true, bne_iff_ne, beq_iff_eq] at h
  obtain ⟨⟨hs, hf⟩, hw⟩ := h
  obtain ⟨mn, hf⟩ := Option.isSome_iff_exists.1 hf
  exact ⟨mn, hf, by simp only [classify, if_neg hs, hf, hw]⟩

/-- A data-movement opcode is classified so. -/
theorem classify_mov {cfg : Configuration} {op : Byte} (h : isMovOpcode cfg op = true) :
    classify cfg op = .dataMovement := by
  simp only [isMovOpcode, Bool.and_eq_true, bne_iff_ne, Option.isNone_iff_eq_none, List.contains_iff_mem] at h
  obtain ⟨⟨hs, hf⟩, hm⟩ := h
  simp only [classify, if_neg hs, hf, if_pos hm]

/-- Any other byte but the sentinel is unrecognized. -/
theorem classify_unrecognized {cfg : Configuration} {op : Byte} (h : isUnrecognizedOpcode cfg op = true) :
    classify cfg op = .unrecognized := by
  simp only [isUnrecognizedOpcode, Bool.and_eq_true, bne_iff_ne, Option.isNone_iff_eq_none, Bool.not_eq_true',
    List.contains_eq_mem, decide_eq_false_iff_not] at h
  obtain ⟨⟨hs, hf⟩, hm⟩ := h
  simp only [classify, if_neg hs, hf, if_neg hm]

/-! ### Association lists -/

theorem mem_of_lookup {β : Type} {l : List (Byte × β)} {a : Byte} {b : β} (h : l.lookup a = some b) : (a, b) ∈ l := by
  induction l with
  | nil => cases h
  | cons x l ih =>
    rw [List.lookup_cons] at h
    split at h
    case h_1 hx =>
      cases h
      have hx : a = x.1 := by simpa using hx
      subst hx
      exact List.mem_cons_self ..
    case h_2 => exact List.mem_cons_of_mem _ (ih h)

theorem lookup_eq_none {β : Type} {l : List (Byte × β)} {a : Byte} (h : a ∉ l.map (·.1)) : l.lookup a = none := by
  induction l with
  | nil => rfl
  | cons x l ih =>
    simp only [List.map_cons, List.mem_cons, not_or] at h
    have hne : (a == x.1) = false := by simpa using h.1
    rw [List.lookup_cons, hne]
    exact ih h.2

/-! ### The ModRM byte -/

/-- Taking the bytes of a well-formed ModRM operand apart gives it back (30_encoding.md rules R57, R58). -/
theorem parseModRm_of_bytes (m : ModRm) (h : m.rm.wellFormed = true) :
    ∃ b ds, m.bytes = b :: ds ∧ ds.length = dispSize b ∧ parseModRm b ds = m := by
  obtain ⟨reg, rm⟩ := m
  cases rm with
  | reg r =>
    refine ⟨_, _, rfl, ?_, ?_⟩
    · simp [dispSize, modField_modrmByte]
    · simp [parseModRm, modField_modrmByte, rmField_modrmByte, regField_modrmByte]
  | direct a =>
    have ha := a.isLt
    refine ⟨_, _, rfl, ?_, ?_⟩
    · simp [dispSize, modField_modrmByte, rmField_modrmByte]
    · simp [parseModRm, modField_modrmByte, rmField_modrmByte, regField_modrmByte, leNat_leBytes, Nat.mod_eq_of_lt ha]
  | indirect r =>
    have hr : r ≠ 6#3 := by simpa [RmOperand.wellFormed] using h
    refine ⟨_, _, rfl, ?_, ?_⟩
    · simp [dispSize, modField_modrmByte, rmField_modrmByte, hr]
    · simp [parseModRm, modField_modrmByte, rmField_modrmByte, regField_modrmByte, hr]
  | disp8 r d =>
    refine ⟨_, _, rfl, ?_, ?_⟩
    · simp [dispSize, modField_modrmByte]
    · simp [parseModRm, modField_modrmByte, rmField_modrmByte, regField_modrmByte, leNat]
  | disp16 r d =>
    have hd := d.isLt
    refine ⟨_, _, rfl, ?_, ?_⟩
    · simp [dispSize, modField_modrmByte]
    · simp [parseModRm, modField_modrmByte, rmField_modrmByte, regField_modrmByte, leNat_leBytes, Nat.mod_eq_of_lt hd]

/-- Putting a ModRM byte and its displacement together again gives the bytes. -/
theorem bytes_of_parseModRm (m : Byte) (ds : List Byte) (h : ds.length = dispSize m) :
    (parseModRm m ds).bytes = m :: ds ∧ (parseModRm m ds).rm.wellFormed = true := by
  have hf := modrmByte_fields m
  have hl := leNat_lt ds
  have hb := leBytes_leNat ds
  rw [h] at hl hb
  have hmod : ∀ x : BitVec 2, x = 0#2 ∨ x = 1#2 ∨ x = 2#2 ∨ x = 3#2 := by decide
  rcases hmod (modField m) with hm | hm | hm | hm <;> rw [hm] at hf
  · by_cases h6 : rmField m = 6#3
    · rw [h6] at hf
      simp only [dispSize, hm, h6, if_true] at h hl hb
      norm_num at hl
      simp [parseModRm, hm, h6, ModRm.bytes, hf, RmOperand.wellFormed, Nat.mod_eq_of_lt hl, hb]
    · simp [dispSize, hm, h6] at h
      simp [parseModRm, hm, h6, ModRm.bytes, hf, RmOperand.wellFormed, h]
  · simp [dispSize, hm] at h
    match ds, h with
    | [d], _ => simp [parseModRm, hm, ModRm.bytes, hf, RmOperand.wellFormed, leNat]
  · simp [dispSize, hm] at h hl hb
    simp [parseModRm, hm, ModRm.bytes, hf, RmOperand.wellFormed, Nat.mod_eq_of_lt hl, hb]
  · simp [dispSize, hm] at h
    simp [parseModRm, hm, ModRm.bytes, hf, RmOperand.wellFormed, h]

/-! ### The offset field -/

/-- With too few bytes the field is short, and holds them all (43_jump.md rule R182). -/
theorem parseJump_short {w : JumpWidth} {rest : List Byte} (h : rest.length < w.bytes) :
    parseJump w rest = .short w rest := if_pos h

/-- With enough bytes the field is complete, and is the first of them (43_jump.md rule R181). -/
theorem parseJump_complete {w : JumpWidth} {rest : List Byte} (h : w.bytes ≤ rest.length) :
    (parseJump w rest).complete = true ∧ (parseJump w rest).width = w ∧
      (parseJump w rest).encoding = rest.take w.bytes := by
  have hge : ¬ rest.length < w.bytes := by omega
  have hlt := leNat_lt (rest.take w.bytes)
  have hback := leBytes_leNat (rest.take w.bytes)
  rw [List.length_take, Nat.min_eq_left h] at hlt hback
  simp only [parseJump, if_neg hge]
  cases w with
  | one =>
    match rest, h with
    | b :: _, _ => simp [leNat, JumpField.complete, JumpField.width, JumpField.encoding, JumpWidth.bytes]
  | two =>
    refine ⟨rfl, rfl, ?_⟩
    simp only [JumpField.encoding, JumpWidth.bytes, BitVec.toNat_ofNat] at hlt hback ⊢
    norm_num at hlt ⊢
    rw [Nat.mod_eq_of_lt hlt]
    exact hback
  | eight =>
    refine ⟨rfl, rfl, ?_⟩
    simp only [JumpField.encoding, JumpWidth.bytes, BitVec.toNat_ofNat] at hlt hback ⊢
    norm_num at hlt ⊢
    rw [Nat.mod_eq_of_lt hlt]
    exact hback

/-! ### Nine bytes are enough (30_encoding.md rule R55) -/

theorem parseJump_take (w : JumpWidth) (rest : List Byte) : parseJump w (rest.take 8) = parseJump w rest := by
  have hw := jumpWidth_bytes_le w
  by_cases h : rest.length ≤ 8
  · rw [List.take_of_length_le h]
  · have htake : ¬ (rest.take 8).length < w.bytes := by rw [List.length_take]; omega
    have hrest : ¬ rest.length < w.bytes := by omega
    simp only [parseJump, if_neg htake, if_neg hrest, List.take_take]
    cases w <;> simp

theorem parseMov_take (mode : ImmregModrm) (op : Byte) (rest : List Byte) :
    parseMov mode op (rest.take 8) = parseMov mode op rest := by
  by_cases h : rest.length ≤ 8
  · rw [List.take_of_length_le h]
  · match rest with
    | [] => rfl
    | m :: more =>
      have hd := dispSize_le m
      simp only [List.length_cons] at h
      have htake : ¬ (more.take 7).length < dispSize m := by rw [List.length_take]; omega
      have hmore : ¬ more.length < dispSize m := by omega
      simp only [parseMov, List.take_succ_cons, if_neg htake, if_neg hmore, List.take_take, List.drop_take]
      rw [Nat.min_eq_left (by omega)]
      cases hm : more.drop (dispSize m) with
      | nil =>
        have := congrArg List.length hm
        simp at this
        omega
      | cons x xs =>
        obtain ⟨k, hk⟩ : ∃ k, 7 - dispSize m = k + 1 := ⟨6 - dispSize m, by omega⟩
        simp [hk]

/-- The decoder reads the same from the first nine bytes as from the whole stream. -/
theorem decode_take (cfg : Configuration) (bs : List Byte) : decode cfg (bs.take maxInstrBytes) = decode cfg bs := by
  cases bs with
  | nil => rfl
  | cons op rest =>
    simp only [maxInstrBytes, List.take_succ_cons, decode, decodeOpcode, parseJump_take, parseMov_take]

end Sys2Proof
end

