-- ==== Sys2Proof/Laws/State.lean ====
section
/-! SUPPORT. What each state update does to each field, so that no later proof unfolds a record update. -/

namespace Sys2Proof.Machine

variable (s : State)

@[simp] theorem forgetLatches_cursor : s.forgetLatches.cursor = s.cursor := rfl
@[simp] theorem forgetLatches_fsm : s.forgetLatches.fsm = s.fsm := rfl
@[simp] theorem forgetLatches_cause : s.forgetLatches.cause = s.cause := rfl
@[simp] theorem forgetLatches_out : s.forgetLatches.out = s.out := rfl
@[simp] theorem forgetLatches_stream : s.forgetLatches.stream = s.stream := rfl
@[simp] theorem forgetLatches_config : s.forgetLatches.config = s.config := rfl
@[simp] theorem forgetLatches_draws : s.forgetLatches.draws = s.draws + 1 := rfl
@[simp] theorem forgetLatches_latches : s.forgetLatches.latches = Config.freeLatches s.draws := rfl

variable (rs : List Record) (r : Record)

@[simp] theorem emitAll_cursor : (s.emitAll rs).cursor = s.cursor := rfl
@[simp] theorem emitAll_fsm : (s.emitAll rs).fsm = s.fsm := rfl
@[simp] theorem emitAll_cause : (s.emitAll rs).cause = s.cause := rfl
@[simp] theorem emitAll_out : (s.emitAll rs).out = s.out ++ rs := rfl
@[simp] theorem emitAll_stream : (s.emitAll rs).stream = s.stream := rfl
@[simp] theorem emitAll_config : (s.emitAll rs).config = s.config := rfl
@[simp] theorem emitAll_draws : (s.emitAll rs).draws = s.draws := rfl
@[simp] theorem emitAll_latches : (s.emitAll rs).latches = s.latches := rfl
@[simp] theorem emitAll_nil : s.emitAll [] = s := by simp [State.emitAll]

/-- One record is emitted as a list of one. -/
theorem emit_eq_emitAll : s.emit r = s.emitAll [r] := rfl

@[simp] theorem emit_cursor : (s.emit r).cursor = s.cursor := rfl
@[simp] theorem emit_fsm : (s.emit r).fsm = s.fsm := rfl
@[simp] theorem emit_cause : (s.emit r).cause = s.cause := rfl
@[simp] theorem emit_out : (s.emit r).out = s.out ++ [r] := rfl
@[simp] theorem emit_stream : (s.emit r).stream = s.stream := rfl
@[simp] theorem emit_config : (s.emit r).config = s.config := rfl
@[simp] theorem emit_draws : (s.emit r).draws = s.draws := rfl
@[simp] theorem emit_latches : (s.emit r).latches = s.latches := rfl

variable (p : Nat)

@[simp] theorem finish_cursor : (s.finish p).cursor = p := rfl
@[simp] theorem finish_fsm : (s.finish p).fsm = s.fsm := rfl
@[simp] theorem finish_cause : (s.finish p).cause = s.cause := rfl
@[simp] theorem finish_out : (s.finish p).out = s.out := rfl
@[simp] theorem finish_stream : (s.finish p).stream = s.stream := rfl
@[simp] theorem finish_config : (s.finish p).config = s.config := rfl
@[simp] theorem finish_draws : (s.finish p).draws = s.draws + 1 := rfl
@[simp] theorem finish_latches : (s.finish p).latches = Config.freeLatches s.draws := rfl

variable (c : Cause)

@[simp] theorem halt_cursor : (s.halt c).cursor = s.cursor := rfl
@[simp] theorem halt_fsm : (s.halt c).fsm = .halted := rfl
@[simp] theorem halt_cause : (s.halt c).cause = c := rfl
@[simp] theorem halt_out : (s.halt c).out = s.out := rfl
@[simp] theorem halt_stream : (s.halt c).stream = s.stream := rfl
@[simp] theorem halt_config : (s.halt c).config = s.config := rfl
@[simp] theorem halt_draws : (s.halt c).draws = s.draws + 1 := rfl
@[simp] theorem halt_latches : (s.halt c).latches = Config.freeLatches s.draws := rfl

variable (k : TruncKind)

@[simp] theorem raiseTruncated_cursor : (s.raiseTruncated k).cursor = s.cursor := rfl
@[simp] theorem raiseTruncated_fsm : (s.raiseTruncated k).fsm = .halted := rfl
@[simp] theorem raiseTruncated_cause : (s.raiseTruncated k).cause = truncCause k := rfl
@[simp] theorem raiseTruncated_out : (s.raiseTruncated k).out = s.out ++ [.diagnostic] := rfl
@[simp] theorem raiseTruncated_stream : (s.raiseTruncated k).stream = s.stream := rfl
@[simp] theorem raiseTruncated_config : (s.raiseTruncated k).config = s.config := rfl
@[simp] theorem raiseTruncated_draws : (s.raiseTruncated k).draws = s.draws + 1 := rfl
@[simp] theorem raiseTruncated_latches : (s.raiseTruncated k).latches = Config.freeLatches s.draws := rfl

@[simp] theorem haltExhausted_cursor : s.haltExhausted.cursor = s.cursor := rfl
@[simp] theorem haltExhausted_fsm : s.haltExhausted.fsm = .halted := rfl
@[simp] theorem haltExhausted_cause : s.haltExhausted.cause = .exhausted := rfl
@[simp] theorem haltExhausted_out : s.haltExhausted.out = s.out := rfl
@[simp] theorem haltExhausted_stream : s.haltExhausted.stream = s.stream := rfl
@[simp] theorem haltExhausted_config : s.haltExhausted.config = s.config := rfl
@[simp] theorem haltExhausted_draws : s.haltExhausted.draws = s.draws + 1 := rfl
@[simp] theorem haltExhausted_latches : s.haltExhausted.latches = Config.freeLatches s.draws := rfl

variable (bs : List Byte)

@[simp] theorem loadStream_cursor : (s.loadStream bs).cursor = s.cursor := rfl
@[simp] theorem loadStream_fsm : (s.loadStream bs).fsm = s.fsm := rfl
@[simp] theorem loadStream_cause : (s.loadStream bs).cause = s.cause := rfl
@[simp] theorem loadStream_out : (s.loadStream bs).out = s.out := rfl
@[simp] theorem loadStream_stream : (s.loadStream bs).stream = Memory.ofBytes bs := rfl
@[simp] theorem loadStream_config : (s.loadStream bs).config = s.config := rfl
@[simp] theorem loadStream_draws : (s.loadStream bs).draws = s.draws := rfl
@[simp] theorem loadStream_latches : (s.loadStream bs).latches = s.latches := rfl

@[simp] theorem applyReset_cursor : s.applyReset.cursor = 0 := rfl
@[simp] theorem applyReset_fsm : s.applyReset.fsm = .scanning := rfl
@[simp] theorem applyReset_cause : s.applyReset.cause = .none := rfl
@[simp] theorem applyReset_out : s.applyReset.out = [] := rfl
@[simp] theorem applyReset_stream : s.applyReset.stream = s.stream := rfl
@[simp] theorem applyReset_config : s.applyReset.config = s.config := rfl
@[simp] theorem applyReset_draws : s.applyReset.draws = s.draws + 1 := rfl
@[simp] theorem applyReset_latches : s.applyReset.latches = Config.freeLatches s.draws := rfl

end Sys2Proof.Machine
end

