-- ==== Sys2Proof/Laws/Exec.lean ====
section
/-! SUPPORT. What each shared operation can do, said once: the provers cite these lemmas instead of unfolding the
operations. -/

namespace Sys2Proof.Machine

/-- The bytes of complete operands of a data movement. -/
theorem movOperands_bytes (op : Byte) (o : MovOperands) (h : o.complete = true) (s : State) :
    ∃ op1 op2, moveStep op o s = .next (printMov op1 op2 o.encoding.length s) := by
  cases o with
  | modrm m =>
    exact ⟨regOperand m.reg.toNat, rmOperand s.config m.rm, by simp [moveStep, MovOperands.encoding]⟩
  | modrmImm m b =>
    by_cases hr : isImmReg op = true
    · exact ⟨_, _, by simp only [moveStep, hr, if_true, MovOperands.encoding, List.length_append, modRm_bytes_length]; rfl⟩
    · exact ⟨_, _, by simp only [moveStep, hr, MovOperands.encoding, List.length_append, modRm_bytes_length]; rfl⟩
  | imm b => exact ⟨_, _, rfl⟩
  | truncated kind present => simp [MovOperands.complete] at h

/-- A data movement emits at most one record, a Line at its own offset. -/
theorem movRecords_cases (cfg : Configuration) (i : Nat) (op1 op2 : Operand) :
    movRecords cfg i op1 op2 = [] ∨
      movRecords cfg i op1 op2 = [.line i cfg.movMnemonic (some (op1.print cfg, op2.print cfg))] := by
  unfold movRecords
  split
  · exact .inl rfl
  · exact .inr rfl

/-- A three-bit index resolves to a register of the table (10_state.md rule R27). -/
theorem regOperand_resolved (r : BitVec 3) : regOperand r.toNat ≠ .unresolved := by
  revert r
  decide

/-- An operand that is not the marker is enough for the Line to be printed (42_data_movement.md rules R148, R149). -/
theorem movRecords_of_resolved {cfg : Configuration} {i : Nat} {op1 op2 : Operand} (h : op1 ≠ .unresolved) :
    movRecords cfg i op1 op2 = [.line i cfg.movMnemonic (some (op1.print cfg, op2.print cfg))] :=
  if_neg fun hm => h hm.1

/-- Everything an instruction that runs can do: print at most one Line at its own offset and move the cursor past its
bytes; or, a soft-failing jump, print its Line and move the cursor to the end of the stream; or raise a truncation. -/
def Effect (i : Instr) (s t : State) : Prop :=
  (i.complete = true ∧ ∃ rs : List Record, (rs = [] ∨ ∃ mn ops, rs = [.line s.cursor mn ops]) ∧
      t = (s.emitAll rs).finish (s.cursor + (encode i).length)) ∨
  (i.complete = false ∧ ∃ mn, t = (s.emitAll [.line s.cursor mn none]).finish s.stream.length) ∨
  (i.complete = false ∧ ∃ kind, t = s.raiseTruncated kind)

theorem skip_effect {i : Instr} {s t : State} (hb : i.operandBytes = []) (hc : i.complete = true)
    (h : skipStep s = .next t) : Effect i s t := by
  cases h
  exact .inl ⟨hc, [], .inl rfl, by simp [encode, hb]⟩

theorem fixed_effect {i : Instr} {op : Byte} {s t : State} (hb : i.operandBytes = []) (hc : i.complete = true)
    (h : fixedStep op s = .next t) : Effect i s t := by
  unfold fixedStep at h
  split at h
  case h_1 mn _ =>
    cases h
    exact .inl ⟨hc, [.line s.cursor mn none], .inr ⟨mn, none, rfl⟩, by simp [encode, hb, State.emit]⟩
  case h_2 => cases h

/-- The cursor after a complete jump (43_jump.md rule R185). -/
theorem jumpNext_complete (i n : Nat) {f : JumpField} (h : f.complete = true) : jumpNext i n f = i + 1 + f.width.bytes := by
  cases f <;> first | rfl | simp [JumpField.complete] at h

/-- The cursor after a soft-fail (43_jump.md rule R182). -/
theorem jumpNext_short (i n : Nat) {f : JumpField} (h : f.complete = false) : jumpNext i n f = n := by
  cases f <;> first | rfl | simp [JumpField.complete] at h

theorem jump_effect {i : Instr} {op : Byte} {f : JumpField} {s t : State} (hb : i.operandBytes = f.encoding)
    (hc : i.complete = f.complete) (h : jumpStep op f s = .next t) : Effect i s t := by
  unfold jumpStep at h
  split at h
  case h_2 => cases h
  case h_1 mn _ =>
    cases h
    by_cases hf : f.complete = true
    · refine .inl ⟨hc.trans hf, [.line s.cursor (jumpText mn (jumpTarget s.cursor f)) none], .inr ⟨_, _, rfl⟩, ?_⟩
      rw [emit_eq_emitAll, jumpNext_complete _ _ hf, encode, hb, List.length_cons, jumpField_encoding_length hf]
      congr 1
      omega
    · have hf : f.complete = false := by simpa using hf
      rw [jumpNext_short _ _ hf]
      exact .inr (.inl ⟨hc.trans hf, _, rfl⟩)

theorem mov_effect {i : Instr} {op : Byte} {o : MovOperands} {s t : State} (hb : i.operandBytes = o.encoding)
    (hc : i.complete = o.complete) (h : moveStep op o s = .next t) : Effect i s t := by
  by_cases ho : o.complete = true
  · obtain ⟨op1, op2, hm⟩ := movOperands_bytes op o ho s
    rw [hm] at h
    cases h
    refine .inl ⟨hc.trans ho, movRecords s.config s.cursor op1 op2, ?_, ?_⟩
    · rcases movRecords_cases s.config s.cursor op1 op2 with hr | hr
      · exact .inl hr
      · exact .inr ⟨_, _, hr⟩
    · simp only [printMov, encode, hb, List.length_cons]
      congr 1
      omega
  · cases o with
    | truncated kind present =>
      cases h
      exact .inr (.inr ⟨hc, kind, rfl⟩)
    | _ => simp [MovOperands.complete] at ho

/-- What `exec` can do when it answers a next state. -/
theorem exec_effect {i : Instr} {s t : State} (h : exec i s = .next t) : Effect i s t := by
  cases i
  case sentinel op => exact skip_effect rfl rfl h
  case unrecognized op => exact skip_effect rfl rfl h
  all_goals first
    | exact fixed_effect rfl rfl h
    | exact jump_effect rfl rfl h
    | exact mov_effect rfl rfl h

/-- No meaning faults. -/
theorem exec_ne_fault (i : Instr) (s : State) (r : Fault) : exec i s ≠ .fault r := by
  have hfixed : ∀ op, fixedStep op s ≠ .fault r := fun op h => by
    unfold fixedStep at h; split at h <;> cases h
  have hjump : ∀ op f, jumpStep op f s ≠ .fault r := fun op f h => by
    unfold jumpStep at h; split at h <;> cases h
  have hmove : ∀ op o, moveStep op o s ≠ .fault r := fun op o h => by
    unfold moveStep at h
    split at h
    · cases h
    · split at h <;> cases h
    · cases h
    · cases h
  cases i
  case sentinel op => exact fun h => by cases h
  case unrecognized op => exact fun h => by cases h
  all_goals first
    | exact hfixed _
    | exact hjump _ _
    | exact hmove _ _

/-! ### The rows of the opcode table all go through the shared steps -/

/-- Whatever its row, a fixed-operand instruction runs the fixed-operand step. -/
theorem exec_fixedInstr (op : Byte) (s : State) : exec (fixedInstr op) s = fixedStep op s := by
  unfold fixedInstr
  cases hl : fixedRows.lookup op with
  | none => rfl
  | some i =>
    have h := mem_of_lookup hl
    simp only [fixedRows, List.cons_append, List.nil_append, List.mem_cons, List.not_mem_nil, or_false, Prod.mk.injEq] at h
    rcases h with h | h | h | h | h | h | h | h | h | h | h | h | h | h | h | h | h | h | h | h | h | h | h | h | h | h | h | h <;>
      rw [h.1, h.2] <;> rfl

/-- Whatever its row, a jump runs the jump step. -/
theorem exec_jumpInstr (op : Byte) (f : JumpField) (s : State) : exec (jumpInstr op f) s = jumpStep op f s := by
  unfold jumpInstr
  cases hl : jumpRows.lookup op with
  | none => rfl
  | some i =>
    have h := mem_of_lookup hl
    simp only [jumpRows, List.cons_append, List.nil_append, List.mem_cons, List.not_mem_nil, or_false, Prod.mk.injEq] at h
    rcases h with h | h | h | h | h | h | h | h | h | h | h | h | h | h | h | h | h | h | h <;>
      rw [h.1, h.2] <;> rfl

/-- Whatever its row, a data movement runs the data-movement step. -/
theorem exec_movInstr (op : Byte) (o : MovOperands) (s : State) : exec (movInstr op o) s = moveStep op o s := by
  unfold movInstr
  cases hl : movRows.lookup op with
  | none => rfl
  | some i =>
    have h := mem_of_lookup hl
    simp only [movRows, List.cons_append, List.nil_append, List.mem_cons, List.not_mem_nil, or_false, Prod.mk.injEq] at h
    rcases h with h | h | h | h | h | h | h | h | h | h | h | h | h | h | h | h | h | h | h | h | h | h <;>
      rw [h.1, h.2] <;> rfl

end Sys2Proof.Machine
end

