-- ==== Sys2Proof/Laws/Memory.lean ====
section
/-! SUPPORT. The stream: every operation on it keeps the canonical form, a read gives the byte last loaded, and the read
port answers exactly on the positions 0 to N - 1. -/

namespace Sys2Proof.Machine

/-- Inserting a cell adds no cell but the inserted one, and that one is not blank. -/
theorem mem_insertCell {a : Nat} {b : Byte} {c : Host.Cell} {l : List Host.Cell}
    (h : c ∈ insertCell a b l) : c ∈ l ∨ (c = (a, b) ∧ b ≠ blankByte) := by
  induction l with
  | nil =>
    simp only [insertCell] at h
    split at h <;> simp_all
  | cons d rest ih =>
    simp only [insertCell] at h
    split at h
    · split at h
      · exact .inl h
      · rcases List.mem_cons.1 h with h | h
        · exact .inr ⟨h, ‹_›⟩
        · exact .inl h
    · split at h
      · split at h
        · exact .inl (List.mem_cons_of_mem _ h)
        · rcases List.mem_cons.1 h with h | h
          · exact .inr ⟨h, ‹_›⟩
          · exact .inl (List.mem_cons_of_mem _ h)
      · rcases List.mem_cons.1 h with h | h
        · simp [h]
        · rcases ih h with h | h
          · simp [h]
          · exact .inr h

/-- Insertion keeps the addresses strictly rising. -/
theorem insertCell_rising {a : Nat} {b : Byte} {l : List Host.Cell}
    (h : l.Pairwise (fun x y => x.1 < y.1)) : (insertCell a b l).Pairwise (fun x y => x.1 < y.1) := by
  induction l with
  | nil =>
    simp only [insertCell]
    split <;> simp
  | cons d rest ih =>
    have hd := List.pairwise_cons.1 h
    simp only [insertCell]
    split
    case isTrue hlt =>
      split
      · exact h
      · refine List.pairwise_cons.2 ⟨?_, h⟩
        intro c hc
        rcases List.mem_cons.1 hc with rfl | hc
        · exact hlt
        · exact Nat.lt_trans hlt (hd.1 c hc)
    case isFalse hlt =>
      split
      case isTrue heq =>
        split
        · exact hd.2
        · exact List.pairwise_cons.2 ⟨fun c hc => heq ▸ hd.1 c hc, hd.2⟩
      case isFalse hne =>
        refine List.pairwise_cons.2 ⟨?_, ih hd.2⟩
        intro c hc
        rcases mem_insertCell hc with hc | ⟨rfl, _⟩
        · exact hd.1 c hc
        · show d.1 < a
          omega

/-- Loading a byte keeps the canonical form. -/
theorem store_wf {m : Memory} (a : Nat) (b : Byte) (h : m.wf) : (m.store a b).wf := by
  refine ⟨insertCell_rising h.1, ?_⟩
  intro c hc
  rcases mem_insertCell hc with hc | ⟨rfl, hb⟩
  · exact ⟨Nat.lt_of_lt_of_le (h.2 c hc).1 (Nat.le_max_left _ _), (h.2 c hc).2⟩
  · exact ⟨Nat.lt_of_lt_of_le (Nat.lt_succ_self a) (Nat.le_max_right _ _), hb⟩

/-- Loading consecutive bytes keeps the canonical form. -/
theorem storeBytes_wf {m : Memory} (a : Nat) (bs : List Byte) (h : m.wf) : (m.storeBytes a bs).wf := by
  induction bs generalizing m a with
  | nil => exact h
  | cons b bs ih => exact ih (a + 1) (store_wf a b h)

theorem empty_wf : Memory.empty.wf := by decide

/-- A loaded stream is in canonical form. -/
theorem ofBytes_wf (bs : List Byte) : (Memory.ofBytes bs).wf := storeBytes_wf 0 bs empty_wf

/-- In a rising list, an address below the first has no cell. -/
theorem lookup_eq_none_of_lt {a : Nat} {l : List Host.Cell} (h : ∀ c ∈ l, a < c.1) : l.lookup a = none := by
  induction l with
  | nil => rfl
  | cons d rest ih =>
    have hd : a < d.1 := h d (List.mem_cons_self ..)
    have hne : (a == d.1) = false := by simpa using Nat.ne_of_lt hd
    rw [List.lookup_cons, hne]
    exact ih fun c hc => h c (List.mem_cons_of_mem _ hc)

/-- What a lookup gives after an insertion. -/
theorem lookup_insertCell {a x : Nat} {b : Byte} {l : List Host.Cell} (h : l.Pairwise (fun x y => x.1 < y.1)) :
    ((insertCell a b l).lookup x).getD blankByte = if x = a then b else (l.lookup x).getD blankByte := by
  induction l with
  | nil =>
    by_cases hx : x = a
    · by_cases hb : b = blankByte <;> simp [insertCell, hb, hx]
    · have hne : (x == a) = false := by simpa using hx
      by_cases hb : b = blankByte <;> simp [insertCell, hb, hx, hne, List.lookup_cons]
  | cons d rest ih =>
    have hd := List.pairwise_cons.1 h
    have ih := ih hd.2
    simp only [insertCell]
    split
    case isTrue hlt =>
      have hnone : (d :: rest).lookup a = none := by
        refine lookup_eq_none_of_lt fun c hc => ?_
        rcases List.mem_cons.1 hc with rfl | hc
        · exact hlt
        · exact Nat.lt_trans hlt (hd.1 c hc)
      split
      case isTrue hb =>
        by_cases hx : x = a
        · subst hx; simp [hnone, hb]
        · simp [hx]
      case isFalse hb =>
        rw [List.lookup_cons]
        by_cases hx : x = a
        · simp [hx]
        · have hne : (x == a) = false := by simpa using hx
          simp [hx, hne]
    case isFalse hlt =>
      split
      case isTrue heq =>
        have hnone : rest.lookup a = none := lookup_eq_none_of_lt fun c hc => heq ▸ hd.1 c hc
        by_cases hx : x = a
        · subst hx
          split
          case isTrue hb => simp [hnone, hb]
          case isFalse hb => simp
        · have hne : (x == a) = false := by simpa using hx
          have hne' : (x == d.1) = false := by rw [← heq]; exact hne
          split
          · rw [List.lookup_cons, hne']
          · rw [List.lookup_cons, List.lookup_cons, hne, hne']
      case isFalse hne =>
        rw [List.lookup_cons, List.lookup_cons]
        by_cases hxd : x = d.1
        · have hxa : x ≠ a := by omega
          have heq : (x == d.1) = true := by simpa using hxd
          simp [heq, hxa]
        · have hfalse : (x == d.1) = false := by simpa using hxd
          simp [hfalse, ih]

/-- A read after a load: the loaded byte at its position, every other position as before. -/
theorem store_cell {m : Memory} (h : m.wf) (a x : Nat) (b : Byte) :
    (m.store a b).cell x = if x = a then b else m.cell x :=
  lookup_insertCell h.1

theorem store_length (m : Memory) (a : Nat) (b : Byte) : (m.store a b).length = max m.length (a + 1) := rfl

theorem storeBytes_length (m : Memory) (a : Nat) (bs : List Byte) (h : bs ≠ []) :
    (m.storeBytes a bs).length = max m.length (a + bs.length) := by
  induction bs generalizing m a with
  | nil => exact absurd rfl h
  | cons b bs ih =>
    cases bs with
    | nil => simp [Memory.storeBytes, store_length]
    | cons b' bs' =>
      have := ih (m.store a b) (a + 1) (by simp)
      rw [Memory.storeBytes, this, store_length]
      simp only [List.length_cons]
      omega

/-- A loaded stream is as long as its bytes. -/
theorem ofBytes_length (bs : List Byte) : (Memory.ofBytes bs).length = bs.length := by
  cases bs with
  | nil => rfl
  | cons b bs => simp [Memory.ofBytes, storeBytes_length, Memory.empty]

/-- A read after consecutive loads. -/
theorem storeBytes_cell {m : Memory} (h : m.wf) (a x : Nat) (bs : List Byte) :
    (m.storeBytes a bs).cell x = if a ≤ x ∧ x < a + bs.length then bs.getD (x - a) blankByte else m.cell x := by
  induction bs generalizing m a with
  | nil =>
    have hno : ¬(a ≤ x ∧ x < a + ([] : List Byte).length) := by simp
    rw [if_neg hno]
    rfl
  | cons b bs ih =>
    rw [Memory.storeBytes, ih (store_wf a b h), store_cell h]
    simp only [List.length_cons]
    by_cases hxa : x = a
    · subst hxa
      simp
    · by_cases hin : a + 1 ≤ x ∧ x < a + 1 + bs.length
      · have hin' : a ≤ x ∧ x < a + (bs.length + 1) := by omega
        rw [if_pos hin, if_pos hin']
        have hsub : x - a = (x - (a + 1)) + 1 := by omega
        rw [hsub]
        simp
      · have hin' : ¬(a ≤ x ∧ x < a + (bs.length + 1)) := by omega
        rw [if_neg hin, if_neg hxa, if_neg hin']

/-- Reading a loaded stream back from position 0 gives its bytes. -/
theorem bytesFrom_ofBytes (bs : List Byte) : (Memory.ofBytes bs).bytesFrom 0 = bs := by
  apply List.ext_getElem
  · simp [Memory.bytesFrom, ofBytes_length]
  · intro n h1 h2
    have hc := storeBytes_cell empty_wf 0 n bs
    simp only [Memory.bytesFrom, List.getElem_map, List.getElem_range']
    rw [show 0 + 1 * n = n by omega, Memory.ofBytes, hc]
    simp [h2]

theorem byteAt_eq_some {m : Memory} {a : Nat} (h : a < m.length) : m.byteAt a = some (m.cell a) := if_pos h

theorem byteAt_eq_none {m : Memory} {a : Nat} (h : m.length ≤ a) : m.byteAt a = none := if_neg (Nat.not_lt.2 h)

/-- The bytes from a position on, split at the first. -/
theorem bytesFrom_cons {m : Memory} {p : Nat} (h : p < m.length) : m.bytesFrom p = m.cell p :: m.bytesFrom (p + 1) := by
  unfold Memory.bytesFrom
  rw [show m.length - p = (m.length - (p + 1)) + 1 by omega, List.range'_succ]
  rfl

theorem bytesFrom_length (m : Memory) (p : Nat) : (m.bytesFrom p).length = m.length - p := by
  simp [Memory.bytesFrom]

theorem bytesFrom_eq_nil {m : Memory} {p : Nat} (h : m.length ≤ p) : m.bytesFrom p = [] := by
  simp [Memory.bytesFrom, h]

/-- Reads that `hasRemaining` covers answer the bytes of the stream, and fault nowhere (20_memory.md rule R41). -/
theorem readBytes_eq {m : Memory} (p n : Nat) (h : p + n ≤ m.length) :
    readBytes m p n = .ok ((m.bytesFrom p).take n) := by
  induction n generalizing p with
  | zero => simp [readBytes]
  | succ n ih =>
    have hp : p < m.length := by omega
    rw [readBytes, byteAt_eq_some hp, ih (p + 1) (by omega), bytesFrom_cons hp]
    rfl

/-- What the decoder is given: the rest of the stream, at most nine bytes of it. -/
theorem fetch_eq {s : State} (h : s.cursor ≤ s.stream.length) :
    fetch s = .ok ((s.stream.bytesFrom s.cursor).take maxInstrBytes) := by
  unfold fetch
  rw [readBytes_eq _ _ (by omega)]
  congr 1
  rw [← List.take_take, ← bytesFrom_length, List.take_length]

end Sys2Proof.Machine
end

