-- ==== Sys2Proof/Laws/PerInstr.lean ====
section
/-! SUPPORT. Facts stated of each instruction as syntax, one lemma per constructor. -/

namespace Sys2Proof.Laws.EncodedLength

/-- Under every configuration a well-formed instruction is 1 to 9 bytes and begins with its opcode byte
(30_encoding.md rule R55). -/
def Statement (i : Instr) : Prop :=
  ∀ cfg : Configuration, i.wellFormed cfg = true →
    (encode i).head? = some i.opcode ∧ 1 ≤ (encode i).length ∧ (encode i).length ≤ 9

theorem sentinel (op : Byte) : Statement (.sentinel op) := fun _ _ => one_byte _ rfl
theorem pushf : Statement .pushf := fun _ _ => one_byte _ rfl
theorem popf : Statement .popf := fun _ _ => one_byte _ rfl
theorem sahf : Statement .sahf := fun _ _ => one_byte _ rfl
theorem lahf : Statement .lahf := fun _ _ => one_byte _ rfl
theorem movsb : Statement .movsb := fun _ _ => one_byte _ rfl
theorem movsw : Statement .movsw := fun _ _ => one_byte _ rfl
theorem cmpsb : Statement .cmpsb := fun _ _ => one_byte _ rfl
theorem cmpsw : Statement .cmpsw := fun _ _ => one_byte _ rfl
theorem stosb : Statement .stosb := fun _ _ => one_byte _ rfl
theorem stosw : Statement .stosw := fun _ _ => one_byte _ rfl
theorem lodsb : Statement .lodsb := fun _ _ => one_byte _ rfl
theorem lodsw : Statement .lodsw := fun _ _ => one_byte _ rfl
theorem scasb : Statement .scasb := fun _ _ => one_byte _ rfl
theorem scasw : Statement .scasw := fun _ _ => one_byte _ rfl
theorem int3 : Statement .int3 := fun _ _ => one_byte _ rfl
theorem into : Statement .into := fun _ _ => one_byte _ rfl
theorem iret : Statement .iret := fun _ _ => one_byte _ rfl
theorem lock : Statement .lock := fun _ _ => one_byte _ rfl
theorem repne : Statement .repne := fun _ _ => one_byte _ rfl
theorem rep : Statement .rep := fun _ _ => one_byte _ rfl
theorem hlt : Statement .hlt := fun _ _ => one_byte _ rfl
theorem cmc : Statement .cmc := fun _ _ => one_byte _ rfl
theorem clc : Statement .clc := fun _ _ => one_byte _ rfl
theorem stc : Statement .stc := fun _ _ => one_byte _ rfl
theorem cli : Statement .cli := fun _ _ => one_byte _ rfl
theorem sti : Statement .sti := fun _ _ => one_byte _ rfl
theorem cld : Statement .cld := fun _ _ => one_byte _ rfl
theorem std : Statement .std := fun _ _ => one_byte _ rfl
theorem jo (f : JumpField) : Statement (.jo f) := fun _ h => jump_bytes _ f rfl h
theorem jno (f : JumpField) : Statement (.jno f) := fun _ h => jump_bytes _ f rfl h
theorem jb (f : JumpField) : Statement (.jb f) := fun _ h => jump_bytes _ f rfl h
theorem jae (f : JumpField) : Statement (.jae f) := fun _ h => jump_bytes _ f rfl h
theorem je (f : JumpField) : Statement (.je f) := fun _ h => jump_bytes _ f rfl h
theorem jne (f : JumpField) : Statement (.jne f) := fun _ h => jump_bytes _ f rfl h
theorem jbe (f : JumpField) : Statement (.jbe f) := fun _ h => jump_bytes _ f rfl h
theorem ja (f : JumpField) : Statement (.ja f) := fun _ h => jump_bytes _ f rfl h
theorem js (f : JumpField) : Statement (.js f) := fun _ h => jump_bytes _ f rfl h
theorem jns (f : JumpField) : Statement (.jns f) := fun _ h => jump_bytes _ f rfl h
theorem jp (f : JumpField) : Statement (.jp f) := fun _ h => jump_bytes _ f rfl h
theorem jnp (f : JumpField) : Statement (.jnp f) := fun _ h => jump_bytes _ f rfl h
theorem jl (f : JumpField) : Statement (.jl f) := fun _ h => jump_bytes _ f rfl h
theorem jge (f : JumpField) : Statement (.jge f) := fun _ h => jump_bytes _ f rfl h
theorem jle (f : JumpField) : Statement (.jle f) := fun _ h => jump_bytes _ f rfl h
theorem jg (f : JumpField) : Statement (.jg f) := fun _ h => jump_bytes _ f rfl h
theorem jmpShort (f : JumpField) : Statement (.jmpShort f) := fun _ h => jump_bytes _ f rfl h
theorem jmp (f : JumpField) : Statement (.jmp f) := fun _ h => jump_bytes _ f rfl h
theorem jmpFar (f : JumpField) : Statement (.jmpFar f) := fun _ h => jump_bytes _ f rfl h
theorem mov88 (o : MovOperands) : Statement (.mov88 o) := fun _ h => mov_bytes _ o rfl h
theorem mov89 (o : MovOperands) : Statement (.mov89 o) := fun _ h => mov_bytes _ o rfl h
theorem mov8A (o : MovOperands) : Statement (.mov8A o) := fun _ h => mov_bytes _ o rfl h
theorem mov8B (o : MovOperands) : Statement (.mov8B o) := fun _ h => mov_bytes _ o rfl h
theorem movC6 (o : MovOperands) : Statement (.movC6 o) := fun _ h => mov_bytes _ o rfl h
theorem movC7 (o : MovOperands) : Statement (.movC7 o) := fun _ h => mov_bytes _ o rfl h
theorem movB0 (o : MovOperands) : Statement (.movB0 o) := fun _ h => mov_bytes _ o rfl h
theorem movB1 (o : MovOperands) : Statement (.movB1 o) := fun _ h => mov_bytes _ o rfl h
theorem movB2 (o : MovOperands) : Statement (.movB2 o) := fun _ h => mov_bytes _ o rfl h
theorem movB3 (o : MovOperands) : Statement (.movB3 o) := fun _ h => mov_bytes _ o rfl h
theorem movB4 (o : MovOperands) : Statement (.movB4 o) := fun _ h => mov_bytes _ o rfl h
theorem movB5 (o : MovOperands) : Statement (.movB5 o) := fun _ h => mov_bytes _ o rfl h
theorem movB6 (o : MovOperands) : Statement (.movB6 o) := fun _ h => mov_bytes _ o rfl h
theorem movB7 (o : MovOperands) : Statement (.movB7 o) := fun _ h => mov_bytes _ o rfl h
theorem movB8 (o : MovOperands) : Statement (.movB8 o) := fun _ h => mov_bytes _ o rfl h
theorem movB9 (o : MovOperands) : Statement (.movB9 o) := fun _ h => mov_bytes _ o rfl h
theorem movBA (o : MovOperands) : Statement (.movBA o) := fun _ h => mov_bytes _ o rfl h
theorem movBB (o : MovOperands) : Statement (.movBB o) := fun _ h => mov_bytes _ o rfl h
theorem movBC (o : MovOperands) : Statement (.movBC o) := fun _ h => mov_bytes _ o rfl h
theorem movBD (o : MovOperands) : Statement (.movBD o) := fun _ h => mov_bytes _ o rfl h
theorem movBE (o : MovOperands) : Statement (.movBE o) := fun _ h => mov_bytes _ o rfl h
theorem movBF (o : MovOperands) : Statement (.movBF o) := fun _ h => mov_bytes _ o rfl h
theorem unrecognized (op : Byte) : Statement (.unrecognized op) := fun _ _ => one_byte _ rfl
theorem fixedOp (op : Byte) : Statement (.fixedOp op) := fun _ _ => one_byte _ rfl
theorem jumpOp (op : Byte) (f : JumpField) : Statement (.jumpOp op f) :=
  fun _ h => jump_bytes _ f rfl (Bool.and_elim_left h)
theorem movOp (op : Byte) (o : MovOperands) : Statement (.movOp op o) :=
  fun _ h => mov_bytes _ o rfl (Bool.and_elim_left h)

end Sys2Proof.Laws.EncodedLength
end

