-- ==== Sys2Proof/Laws/Step.lean ====
section
/-! SUPPORT. What a step can do, said once. -/

namespace Sys2Proof.Machine

/-- In SCANNING with no byte left, a step halts on exhaustion (40_dispatch.md rule R89). -/
theorem step_exhausted {s : State} (hf : s.fsm = .scanning) (hc : s.stream.length ≤ s.cursor) :
    step s = .next s.haltExhausted := by
  have hr : s.stream.hasRemaining s.cursor 1 = false := decide_eq_false (by omega)
  simp [step, hf, hr]

/-- In SCANNING with a byte at the cursor, a step runs what the next nine bytes decode to. -/
theorem step_ready {s : State} (h : s.fsm = .scanning ∧ s.cursor < s.stream.length) {i : Instr}
    (hi : decode s.config ((s.stream.bytesFrom s.cursor).take maxInstrBytes) = .ok i) : step s = exec i s := by
  have hr : s.stream.hasRemaining s.cursor 1 = true := decide_eq_true h.2
  simp [step, h.1, hr, fetch_eq (Nat.le_of_lt h.2), hi]

/-- What a step that answers a next state has done: halted on exhaustion, or run the instruction at the cursor. -/
theorem step_cases {s t : State} (h : step s = .next t) :
    s.fsm = .scanning ∧
      ((s.stream.length ≤ s.cursor ∧ t = s.haltExhausted) ∨
       (s.cursor < s.stream.length ∧ ∃ i,
          decode s.config ((s.stream.bytesFrom s.cursor).take maxInstrBytes) = .ok i ∧ exec i s = .next t)) := by
  have hf : s.fsm = .scanning := by
    unfold step at h
    split at h
    · cases h
    · cases h
    · assumption
  refine ⟨hf, ?_⟩
  by_cases hc : s.cursor < s.stream.length
  · obtain ⟨i, hi⟩ : ∃ i, decode s.config ((s.stream.bytesFrom s.cursor).take maxInstrBytes) = .ok i := by
      rw [bytesFrom_cons hc]
      exact ⟨_, rfl⟩
    exact .inr ⟨hc, i, hi, by rw [← step_ready ⟨hf, hc⟩ hi]; exact h⟩
  · rw [step_exhausted hf (by omega)] at h
    cases h
    exact .inl ⟨by omega, rfl⟩

/-- A run whose first step answers a next state goes on from it. -/
theorem run_of_step {s t : State} (h : step s = .next t) (k : Nat) :
    Host.Core.run core (k + 1) s = Host.Core.run core k t := by
  have any : ∀ (M : Host.Core) (x y : M.State), M.step x = .next y → Host.Core.run M (k + 1) x = Host.Core.run M k y :=
    fun M x y hxy => by rw [Host.Core.run, hxy]
  exact any core s t h

end Sys2Proof.Machine
end

