-- ==== Sys2Proof/Tests/Slice0.lean ====
section
/-! SUPPORT. Tests. Expected values come from spec/opcode_table.json, 30_encoding.md and the rows of 95_test_vectors.md
(without their last step, which only halts). After them, for each obligation with hypotheses, a witness that meets them. -/

namespace Sys2Proof.Tests

open Sys2Proof.Machine Sys2Proof.Claims

/-! ### Small states -/

/-- Reset, with these bytes loaded. -/
def loaded (bs : List Byte) : State := State.reset.loadStream bs

/-- The same under IMMREG_MODRM = CONSUME. -/
def loadedConsume (bs : List Byte) : State := { loaded bs with config := consumeConfiguration }

/-- A configuration with an opcode more in each table. -/
def wideConfiguration : Configuration :=
  { defaultConfiguration with
    fixedTable := (0x90, "NOP") :: (0xE2, "LOOP") :: defaultConfiguration.fixedTable
    jumpWidth := (0xE2, .one) :: defaultConfiguration.jumpWidth
    movSet := 0x8C :: defaultConfiguration.movSet }

/-- Reset under that configuration, with these bytes loaded. -/
def loadedWide (bs : List Byte) : State := { loaded bs with config := wideConfiguration }

/-- The state before the last instruction of vector S9b of 95_test_vectors.md (`F8 89`). -/
def afterClc : State := { loaded [0xF8, 0x89] with cursor := 1, out := [.line 0 "CLC" none] }

/-- Bytes, and the cursor, the cause and the one record's text after one step. -/
abbrev Vector1 := List Byte × Nat × Cause × String

/-- The cursor, the cause and the text after a step. -/
def shown : Host.Outcome State Fault Refusal → Option (Nat × Cause × String)
  | .next t => some (t.cursor, t.cause, t.outText)
  | _ => none

/-! ### Ill-formed terms are refused -/

theorem test_illformed_configurations :
    { defaultConfiguration with jumpWidth := [(0x90, .one)] }.wellFormed = false ∧
    { defaultConfiguration with sentinel := 0xF4 }.wellFormed = false ∧
    { defaultConfiguration with sentinel := 0x88 }.wellFormed = false ∧
    { defaultConfiguration with movSet := [0xF4] }.wellFormed = false ∧ wideConfiguration.wellFormed = true := by decide

theorem test_illformed_rm_operand : (RmOperand.indirect 6).wellFormed = false := by decide

theorem test_illformed_jump_fields :
    (JumpField.short .one [1]).wellFormed = false ∧ (JumpField.short .two [1, 2]).wellFormed = false ∧
    (JumpField.short .eight [1, 2, 3, 4, 5, 6, 7, 8]).wellFormed = false := by decide

theorem test_illformed_mov_complete :
    let rm : ModRm := { reg := 0, rm := .reg 0 }
    let bad : ModRm := { reg := 0, rm := .indirect 6 }
    (MovOperands.modrm bad).wellFormed .skip 0x88 = false ∧ (MovOperands.modrm rm).wellFormed .skip 0xC6 = false ∧
    (MovOperands.modrm rm).wellFormed .skip 0xB0 = false ∧ (MovOperands.modrm rm).wellFormed .consume 0xB0 = false ∧
    (MovOperands.modrmImm bad 5).wellFormed .skip 0xC6 = false ∧
    (MovOperands.modrmImm rm 5).wellFormed .skip 0x88 = false ∧
    (MovOperands.modrmImm rm 5).wellFormed .skip 0xB0 = false ∧ (MovOperands.imm 5).wellFormed .skip 0x88 = false ∧
    (MovOperands.imm 5).wellFormed .skip 0xC6 = false ∧ (MovOperands.imm 5).wellFormed .consume 0xB0 = false := by decide

theorem test_illformed_mov_truncated :
    (MovOperands.truncated .modrm [0xC0]).wellFormed .skip 0x88 = false ∧
    (MovOperands.truncated .modrm []).wellFormed .skip 0xB0 = false ∧
    (MovOperands.truncated .disp []).wellFormed .skip 0x88 = false ∧
    (MovOperands.truncated .disp [0xC0]).wellFormed .skip 0x88 = false ∧
    (MovOperands.truncated .disp [0x86, 1, 2]).wellFormed .skip 0x88 = false ∧
    (MovOperands.truncated .disp [0x86]).wellFormed .skip 0xB0 = false ∧
    (MovOperands.truncated .imm []).wellFormed .skip 0x88 = false ∧
    (MovOperands.truncated .imm []).wellFormed .consume 0xB0 = false ∧
    (MovOperands.truncated .imm [0xC0]).wellFormed .skip 0x88 = false ∧
    (MovOperands.truncated .imm [0xC0]).wellFormed .skip 0xB0 = false ∧
    (MovOperands.truncated .imm [0x46]).wellFormed .skip 0xC6 = false ∧
    (MovOperands.truncated .imm [0xC0, 5]).wellFormed .skip 0xC6 = false := by decide

theorem test_illformed_instructions :
    ∀ i ∈ ([.sentinel 1, .unrecognized 0x00, .unrecognized 0xF4, .unrecognized 0x74, .unrecognized 0x88,
        .jo (.rel16 5), .jmp (.rel8 5), .jmpFar (.rel16 5), .jg (.short .two []), .je (.short .one [5]),
        .mov88 (.imm 5), .movB0 (.truncated .modrm []), .fixedOp 0x90, .fixedOp 0xF4, .fixedOp 0x74,
        .jumpOp 0xE2 (.rel8 5), .jumpOp 0x74 (.rel8 5), .movOp 0x8C (.truncated .modrm []),
        .movOp 0x88 (.truncated .modrm [])] : List Instr),
      i.wellFormed defaultConfiguration = false := by decide

theorem test_illformed_without_the_opcode :
    let bare : Configuration := { defaultConfiguration with fixedTable := [], movSet := [] }
    Instr.wellFormed bare .hlt = false ∧ Instr.wellFormed bare (.je (.rel8 5)) = false ∧
    Instr.wellFormed bare (.mov88 (.truncated .modrm [])) = false ∧
    Instr.wellFormed { defaultConfiguration with sentinel := 0xF4 } .hlt = false := by decide

/-! ### Words decode to what they stand for -/

/-- spec/opcode_table.json, format FIXED. -/
theorem test_decode_fixed_1 : ∀ v ∈ ([
    ([0b10011100], .pushf),
    ([0b10011101], .popf),
    ([0b10011110], .sahf),
    ([0b10011111], .lahf),
    ([0b10100100], .movsb),
    ([0b10100101], .movsw),
    ([0b10100110], .cmpsb),
    ([0b10100111], .cmpsw),
    ([0b10101010], .stosb),
    ([0b10101011], .stosw),
    ([0b10101100], .lodsb),
    ([0b10101101], .lodsw),
    ([0b10101110], .scasb),
    ([0b10101111], .scasw)] : List (List Byte × Instr)),
    decode defaultConfiguration v.1 = .ok v.2 := by decide

/-- spec/opcode_table.json, format FIXED; the byte after the opcode belongs to the next instruction. -/
theorem test_decode_fixed_2 : ∀ v ∈ ([
    ([0b11001100, 0b01110100], .int3),
    ([0b11001110, 0b01110100], .into),
    ([0b11001111, 0b01110100], .iret),
    ([0b11110000, 0b01110100], .lock),
    ([0b11110010, 0b01110100], .repne),
    ([0b11110011, 0b01110100], .rep),
    ([0b11110100, 0b01110100], .hlt),
    ([0b11110101, 0b01110100], .cmc),
    ([0b11111000, 0b01110100], .clc),
    ([0b11111001, 0b01110100], .stc),
    ([0b11111010, 0b01110100], .cli),
    ([0b11111011, 0b01110100], .sti),
    ([0b11111100, 0b01110100], .cld),
    ([0b11111101, 0b01110100], .std)] : List (List Byte × Instr)),
    decode defaultConfiguration v.1 = .ok v.2 := by decide

/-- spec/opcode_table.json, format JREL8: the offset is byte 1. -/
theorem test_decode_short_jumps : ∀ v ∈ ([
    ([0b01110000, 0b10000000], .jo (.rel8 0x80)),
    ([0b01110001, 0b10000001], .jno (.rel8 0x81)),
    ([0b01110010, 0b10000010], .jb (.rel8 0x82)),
    ([0b01110011, 0b10000011], .jae (.rel8 0x83)),
    ([0b01110100, 0b10000100], .je (.rel8 0x84)),
    ([0b01110101, 0b10000101], .jne (.rel8 0x85)),
    ([0b01110110, 0b10000110], .jbe (.rel8 0x86)),
    ([0b01110111, 0b10000111], .ja (.rel8 0x87)),
    ([0b01111000, 0b10001000], .js (.rel8 0x88)),
    ([0b01111001, 0b10001001], .jns (.rel8 0x89)),
    ([0b01111010, 0b10001010], .jp (.rel8 0x8a)),
    ([0b01111011, 0b10001011], .jnp (.rel8 0x8b)),
    ([0b01111100, 0b10001100], .jl (.rel8 0x8c)),
    ([0b01111101, 0b10001101], .jge (.rel8 0x8d)),
    ([0b01111110, 0b10001110], .jle (.rel8 0x8e)),
    ([0b01111111, 0b10001111], .jg (.rel8 0x8f)),
    ([0b11101011, 0b10010000], .jmpShort (.rel8 0x90))] : List (List Byte × Instr)),
    decode defaultConfiguration v.1 = .ok v.2 := by decide

/-- spec/opcode_table.json, formats JREL16 and JFAR8: low byte first; and fields that the stream ends inside. -/
theorem test_decode_wide_and_short_fields : ∀ v ∈ ([
    ([0b11101001, 0b00110100, 0b00010010], .jmp (.rel16 0x1234)),
    ([0b11101001, 0b00110100], .jmp (.short .two [0x34])),
    ([0b11101010, 0b00000001, 0b00000010, 0b00000011, 0b00000100, 0b00000101, 0b00000110, 0b00000111, 0b00001000], .jmpFar (.far64 0x0807060504030201)),
    ([0b11101010, 0b00000001, 0b00000010, 0b00000011, 0b00000100, 0b00000101, 0b00000110, 0b00000111], .jmpFar (.short .eight [1, 2, 3, 4, 5, 6, 7])),
    ([0b01111111], .jg (.short .one []))] : List (List Byte × Instr)),
    decode defaultConfiguration v.1 = .ok v.2 := by decide

/-- spec/opcode_table.json, formats MOVRM and MOVIM: MOD 7..6, REG 5..3, RM 2..0, then the displacement, then the immediate. -/
theorem test_decode_modrm_moves : ∀ v ∈ ([
    ([0b10001000, 0b11010001], .mov88 (.modrm { reg := 0b010, rm := .reg 0b001 })),
    ([0b10001001, 0b00101110, 0b00110100, 0b00010010], .mov89 (.modrm { reg := 0b101, rm := .direct 0x1234 })),
    ([0b10001010, 0b00110011], .mov8A (.modrm { reg := 0b110, rm := .indirect 0b011 })),
    ([0b10001011, 0b01001110, 0b10000000], .mov8B (.modrm { reg := 0b001, rm := .disp8 0b110 0x80 })),
    ([0b10001011, 0b10100111, 0b00000001, 0b11111111], .mov8B (.modrm { reg := 0b100, rm := .disp16 0b111 0xFF01 })),
    ([0b11000110, 0b10111000, 0b00000010, 0b00000001, 0b01010101], .movC6 (.modrmImm { reg := 0b111, rm := .disp16 0b000 0x0102 } 0x55)),
    ([0b11000111, 0b11000100, 0b01100110], .movC7 (.modrmImm { reg := 0b000, rm := .reg 0b100 } 0x66))] : List (List Byte × Instr)),
    decode defaultConfiguration v.1 = .ok v.2 := by decide

/-- spec/opcode_table.json, format MOVIR under SKIP: the immediate is byte 1. -/
theorem test_decode_immediate_moves_skip : ∀ v ∈ ([
    ([0b10110000, 0b00010000], .movB0 (.imm 0x10)),
    ([0b10110001, 0b00010001], .movB1 (.imm 0x11)),
    ([0b10110010, 0b00010010], .movB2 (.imm 0x12)),
    ([0b10110011, 0b00010011], .movB3 (.imm 0x13)),
    ([0b10110100, 0b00010100], .movB4 (.imm 0x14)),
    ([0b10110101, 0b00010101], .movB5 (.imm 0x15)),
    ([0b10110110, 0b00010110], .movB6 (.imm 0x16)),
    ([0b10110111, 0b00010111], .movB7 (.imm 0x17)),
    ([0b10111000, 0b00011000], .movB8 (.imm 0x18)),
    ([0b10111001, 0b00011001], .movB9 (.imm 0x19)),
    ([0b10111010, 0b00011010], .movBA (.imm 0x1a)),
    ([0b10111011, 0b00011011], .movBB (.imm 0x1b)),
    ([0b10111100, 0b00011100], .movBC (.imm 0x1c)),
    ([0b10111101, 0b00011101], .movBD (.imm 0x1d)),
    ([0b10111110, 0b00011110], .movBE (.imm 0x1e)),
    ([0b10111111, 0b00011111], .movBF (.imm 0x1f))] : List (List Byte × Instr)),
    decode defaultConfiguration v.1 = .ok v.2 := by decide

/-- spec/opcode_table.json, format MOVIR under CONSUME: ModRM, displacement, immediate. -/
theorem test_decode_immediate_moves_consume : ∀ v ∈ ([
    ([0b10110000, 0b01000010, 0b00100000, 0b00110000], .movB0 (.modrmImm { reg := 0, rm := .disp8 2 0x20 } 0x30)),
    ([0b10110001, 0b01001010, 0b00100001, 0b00110001], .movB1 (.modrmImm { reg := 1, rm := .disp8 2 0x21 } 0x31)),
    ([0b10110010, 0b01010010, 0b00100010, 0b00110010], .movB2 (.modrmImm { reg := 2, rm := .disp8 2 0x22 } 0x32)),
    ([0b10110011, 0b01011010, 0b00100011, 0b00110011], .movB3 (.modrmImm { reg := 3, rm := .disp8 2 0x23 } 0x33)),
    ([0b10110100, 0b01100010, 0b00100100, 0b00110100], .movB4 (.modrmImm { reg := 4, rm := .disp8 2 0x24 } 0x34)),
    ([0b10110101, 0b01101010, 0b00100101, 0b00110101], .movB5 (.modrmImm { reg := 5, rm := .disp8 2 0x25 } 0x35)),
    ([0b10110110, 0b01110010, 0b00100110, 0b00110110], .movB6 (.modrmImm { reg := 6, rm := .disp8 2 0x26 } 0x36)),
    ([0b10110111, 0b01111010, 0b00100111, 0b00110111], .movB7 (.modrmImm { reg := 7, rm := .disp8 2 0x27 } 0x37)),
    ([0b10111000, 0b01000010, 0b00101000, 0b00111000], .movB8 (.modrmImm { reg := 0, rm := .disp8 2 0x28 } 0x38)),
    ([0b10111001, 0b01001010, 0b00101001, 0b00111001], .movB9 (.modrmImm { reg := 1, rm := .disp8 2 0x29 } 0x39)),
    ([0b10111010, 0b01010010, 0b00101010, 0b00111010], .movBA (.modrmImm { reg := 2, rm := .disp8 2 0x2a } 0x3a)),
    ([0b10111011, 0b01011010, 0b00101011, 0b00111011], .movBB (.modrmImm { reg := 3, rm := .disp8 2 0x2b } 0x3b)),
    ([0b10111100, 0b01100010, 0b00101100, 0b00111100], .movBC (.modrmImm { reg := 4, rm := .disp8 2 0x2c } 0x3c)),
    ([0b10111101, 0b01101010, 0b00101101, 0b00111101], .movBD (.modrmImm { reg := 5, rm := .disp8 2 0x2d } 0x3d)),
    ([0b10111110, 0b01110010, 0b00101110, 0b00111110], .movBE (.modrmImm { reg := 6, rm := .disp8 2 0x2e } 0x3e)),
    ([0b10111111, 0b01111010, 0b00101111, 0b00111111], .movBF (.modrmImm { reg := 7, rm := .disp8 2 0x2f } 0x3f))] : List (List Byte × Instr)),
    decode consumeConfiguration v.1 = .ok v.2 := by decide

/-- 42_data_movement.md rule R174: the first missing field. -/
theorem test_decode_truncated_moves : ∀ v ∈ ([
    ([0b10001000], .mov88 (.truncated .modrm [])),
    ([0b10001001, 0b10000000, 0b00000001], .mov89 (.truncated .disp [0b10000000, 1])),
    ([0b10001010, 0b01000000], .mov8A (.truncated .disp [0b01000000])),
    ([0b11000110, 0b00000110, 0b00000001, 0b00000010], .movC6 (.truncated .imm [0b00000110, 1, 2])),
    ([0b11000111, 0b11000000], .movC7 (.truncated .imm [0b11000000])),
    ([0b10110000], .movB0 (.truncated .imm []))] : List (List Byte × Instr)),
    decode defaultConfiguration v.1 = .ok v.2 := by decide

/-- spec/opcode_table.json, formats SENT and UNREC. -/
theorem test_decode_skipped_bytes : ∀ v ∈ ([
    ([0b00000000], .sentinel 0),
    ([0b10010000, 0b11110100], .unrecognized 0x90),
    ([0b11111111], .unrecognized 0xFF)] : List (List Byte × Instr)),
    decode defaultConfiguration v.1 = .ok v.2 := by decide

/-- 40_dispatch.md rules R82 and R84 to R87 under a configuration with more opcodes: 0x90 fixed, 0xE2 a short jump, 0x8C a data movement. -/
theorem test_decode_added_opcodes : ∀ v ∈ ([
    ([0b10010000, 0b00000001], .fixedOp 0x90),
    ([0b11100010, 0b11111110], .jumpOp 0xE2 (.rel8 0xFE)),
    ([0b10001100, 0b11011000], .movOp 0x8C (.modrm { reg := 0b011, rm := .reg 0b000 })),
    ([0b11110100], .hlt)] : List (List Byte × Instr)),
    decode wideConfiguration v.1 = .ok v.2 := by decide

/-- No bytes, no instruction (40_dispatch.md rule R89). -/
theorem test_decode_nothing : decode defaultConfiguration [] = .error .noOpcodeByte := by decide

/-! ### One step -/

/-- 95_test_vectors.md F1 to F10, one step. -/
theorem test_fixed_vectors_1 : ∀ v ∈ ([
    ([0x9C], 1, .none, "CS:0   PUSHF\n"),
    ([0x9D], 1, .none, "CS:0   POPF\n"),
    ([0x9E], 1, .none, "CS:0   SAHF\n"),
    ([0x9F], 1, .none, "CS:0   LAHF\n"),
    ([0xA4], 1, .none, "CS:0   MOVSB\n"),
    ([0xA5], 1, .none, "CS:0   MOVSW\n"),
    ([0xA6], 1, .none, "CS:0   CMPSB\n"),
    ([0xA7], 1, .none, "CS:0   CMPSW\n"),
    ([0xAA], 1, .none, "CS:0   STOSB\n"),
    ([0xAB], 1, .none, "CS:0   STOSW\n")] : List Vector1),
    shown (step (loaded v.1)) = some v.2 := by decide

/-- 95_test_vectors.md F11 to F20, one step. -/
theorem test_fixed_vectors_2 : ∀ v ∈ ([
    ([0xAC], 1, .none, "CS:0   LODSB\n"),
    ([0xAD], 1, .none, "CS:0   LODSW\n"),
    ([0xAE], 1, .none, "CS:0   SCASB\n"),
    ([0xAF], 1, .none, "CS:0   SCASW\n"),
    ([0xCC], 1, .none, "CS:0   INT3\n"),
    ([0xCE], 1, .none, "CS:0   INTO\n"),
    ([0xCF], 1, .none, "CS:0   IRET\n"),
    ([0xF0], 1, .none, "CS:0   LOCK\n"),
    ([0xF2], 1, .none, "CS:0   REPNE\n"),
    ([0xF3], 1, .none, "CS:0   REP\n")] : List Vector1),
    shown (step (loaded v.1)) = some v.2 := by decide

/-- 95_test_vectors.md F21 to F28, one step. -/
theorem test_fixed_vectors_3 : ∀ v ∈ ([
    ([0xF4], 1, .none, "CS:0   HLT\n"),
    ([0xF5], 1, .none, "CS:0   CMC\n"),
    ([0xF8], 1, .none, "CS:0   CLC\n"),
    ([0xF9], 1, .none, "CS:0   STC\n"),
    ([0xFA], 1, .none, "CS:0   CLI\n"),
    ([0xFB], 1, .none, "CS:0   STI\n"),
    ([0xFC], 1, .none, "CS:0   CLD\n"),
    ([0xFD], 1, .none, "CS:0   STD\n")] : List Vector1),
    shown (step (loaded v.1)) = some v.2 := by decide

/-- 95_test_vectors.md M1 to M8, one step. -/
theorem test_rm_table_mod_00 : ∀ v ∈ ([
    ([0x8B, 0x00], 2, .none, "CS:0   MOV AX, [BX+SI]\n"),
    ([0x8B, 0x01], 2, .none, "CS:0   MOV AX, [BX+DI]\n"),
    ([0x8B, 0x02], 2, .none, "CS:0   MOV AX, [BP+SI]\n"),
    ([0x8B, 0x03], 2, .none, "CS:0   MOV AX, [BP+DI]\n"),
    ([0x8B, 0x04], 2, .none, "CS:0   MOV AX, [SI]\n"),
    ([0x8B, 0x05], 2, .none, "CS:0   MOV AX, [DI]\n"),
    ([0x8B, 0x06, 0x34, 0x12], 4, .none, "CS:0   MOV AX, [0x1234]\n"),
    ([0x8B, 0x07], 2, .none, "CS:0   MOV AX, [BX]\n")] : List Vector1),
    shown (step (loaded v.1)) = some v.2 := by decide

/-- 95_test_vectors.md M9 to M16, one step. -/
theorem test_rm_table_mod_01 : ∀ v ∈ ([
    ([0x8B, 0x40, 0x05], 3, .none, "CS:0   MOV AX, [BX+SI+0x05]\n"),
    ([0x8B, 0x41, 0x7F], 3, .none, "CS:0   MOV AX, [BX+DI+0x7F]\n"),
    ([0x8B, 0x42, 0x80], 3, .none, "CS:0   MOV AX, [BP+SI-0x80]\n"),
    ([0x8B, 0x43, 0xFF], 3, .none, "CS:0   MOV AX, [BP+DI-0x01]\n"),
    ([0x8B, 0x44, 0x00], 3, .none, "CS:0   MOV AX, [SI+0x00]\n"),
    ([0x8B, 0x45, 0xFE], 3, .none, "CS:0   MOV AX, [DI-0x02]\n"),
    ([0x8B, 0x46, 0x01], 3, .none, "CS:0   MOV AX, [BP+0x01]\n"),
    ([0x8B, 0x47, 0x81], 3, .none, "CS:0   MOV AX, [BX-0x7F]\n")] : List Vector1),
    shown (step (loaded v.1)) = some v.2 := by decide

/-- 95_test_vectors.md M17 to M24, one step. -/
theorem test_rm_table_mod_10 : ∀ v ∈ ([
    ([0x8B, 0x80, 0x00, 0x01], 4, .none, "CS:0   MOV AX, [BX+SI+0x0100]\n"),
    ([0x8B, 0x81, 0xFF, 0xFF], 4, .none, "CS:0   MOV AX, [BX+DI+0xFFFF]\n"),
    ([0x8B, 0x82, 0x00, 0x80], 4, .none, "CS:0   MOV AX, [BP+SI+0x8000]\n"),
    ([0x8B, 0x83, 0x00, 0x00], 4, .none, "CS:0   MOV AX, [BP+DI+0x0000]\n"),
    ([0x8B, 0x84, 0x34, 0x12], 4, .none, "CS:0   MOV AX, [SI+0x1234]\n"),
    ([0x8B, 0x85, 0xFF, 0x00], 4, .none, "CS:0   MOV AX, [DI+0x00FF]\n"),
    ([0x8B, 0x86, 0xFF, 0x7F], 4, .none, "CS:0   MOV AX, [BP+0x7FFF]\n"),
    ([0x8B, 0x87, 0x01, 0x00], 4, .none, "CS:0   MOV AX, [BX+0x0001]\n")] : List Vector1),
    shown (step (loaded v.1)) = some v.2 := by decide

/-- 95_test_vectors.md M25 to M32, one step. -/
theorem test_rm_table_mod_11 : ∀ v ∈ ([
    ([0x8B, 0xC0], 2, .none, "CS:0   MOV AX, AX\n"),
    ([0x8B, 0xC1], 2, .none, "CS:0   MOV AX, CX\n"),
    ([0x8B, 0xC2], 2, .none, "CS:0   MOV AX, DX\n"),
    ([0x8B, 0xC3], 2, .none, "CS:0   MOV AX, BX\n"),
    ([0x8B, 0xC4], 2, .none, "CS:0   MOV AX, SP\n"),
    ([0x8B, 0xC5], 2, .none, "CS:0   MOV AX, BP\n"),
    ([0x8B, 0xC6], 2, .none, "CS:0   MOV AX, SI\n"),
    ([0x8B, 0xC7], 2, .none, "CS:0   MOV AX, DI\n")] : List Vector1),
    shown (step (loaded v.1)) = some v.2 := by decide

/-- 95_test_vectors.md M33 to M45, one step. -/
theorem test_reg_field_and_operand_order : ∀ v ∈ ([
    ([0x89, 0x07], 2, .none, "CS:0   MOV AX, [BX]\n"),
    ([0x89, 0x0F], 2, .none, "CS:0   MOV CX, [BX]\n"),
    ([0x89, 0x17], 2, .none, "CS:0   MOV DX, [BX]\n"),
    ([0x89, 0x1F], 2, .none, "CS:0   MOV BX, [BX]\n"),
    ([0x89, 0x27], 2, .none, "CS:0   MOV SP, [BX]\n"),
    ([0x89, 0x2F], 2, .none, "CS:0   MOV BP, [BX]\n"),
    ([0x89, 0x37], 2, .none, "CS:0   MOV SI, [BX]\n"),
    ([0x89, 0x3F], 2, .none, "CS:0   MOV DI, [BX]\n"),
    ([0x88, 0xD8], 2, .none, "CS:0   MOV BX, AX\n"),
    ([0x89, 0xD8], 2, .none, "CS:0   MOV BX, AX\n"),
    ([0x8A, 0xD8], 2, .none, "CS:0   MOV BX, AX\n"),
    ([0x8B, 0xD8], 2, .none, "CS:0   MOV BX, AX\n"),
    ([0x89, 0xC0], 2, .none, "CS:0   MOV AX, AX\n")] : List Vector1),
    shown (step (loaded v.1)) = some v.2 := by decide

/-- 95_test_vectors.md M46 to M51, one step. -/
theorem test_mov_truncations : ∀ v ∈ ([
    ([0x88], 0, .truncModrm, "Error: instruction truncated at end of stream.\n"),
    ([0x8B, 0x06], 0, .truncDisp, "Error: instruction truncated at end of stream.\n"),
    ([0x8B, 0x06, 0x34], 0, .truncDisp, "Error: instruction truncated at end of stream.\n"),
    ([0x89, 0x47], 0, .truncDisp, "Error: instruction truncated at end of stream.\n"),
    ([0x8A, 0x87], 0, .truncDisp, "Error: instruction truncated at end of stream.\n"),
    ([0x8A, 0x87, 0x10], 0, .truncDisp, "Error: instruction truncated at end of stream.\n")] : List Vector1),
    shown (step (loaded v.1)) = some v.2 := by decide

/-- 95_test_vectors.md the odd rows I1 to I31 and I36, one step under SKIP. -/
theorem test_immediate_moves_skip : ∀ v ∈ ([
    ([0xB0, 0x05], 2, .none, "CS:0   MOV AX, 0x05\n"),
    ([0xB1, 0x7F], 2, .none, "CS:0   MOV CX, 0x7F\n"),
    ([0xB2, 0x80], 2, .none, "CS:0   MOV DX, 0x80\n"),
    ([0xB3, 0xFF], 2, .none, "CS:0   MOV BX, 0xFF\n"),
    ([0xB4, 0x05], 2, .none, "CS:0   MOV SP, 0x05\n"),
    ([0xB5, 0x7F], 2, .none, "CS:0   MOV BP, 0x7F\n"),
    ([0xB6, 0x80], 2, .none, "CS:0   MOV SI, 0x80\n"),
    ([0xB7, 0xFF], 2, .none, "CS:0   MOV DI, 0xFF\n"),
    ([0xB8, 0x05], 2, .none, "CS:0   MOV AX, 0x05\n"),
    ([0xB9, 0x7F], 2, .none, "CS:0   MOV CX, 0x7F\n"),
    ([0xBA, 0x80], 2, .none, "CS:0   MOV DX, 0x80\n"),
    ([0xBB, 0xFF], 2, .none, "CS:0   MOV BX, 0xFF\n"),
    ([0xBC, 0x05], 2, .none, "CS:0   MOV SP, 0x05\n"),
    ([0xBD, 0x7F], 2, .none, "CS:0   MOV BP, 0x7F\n"),
    ([0xBE, 0x80], 2, .none, "CS:0   MOV SI, 0x80\n"),
    ([0xBF, 0xFF], 2, .none, "CS:0   MOV DI, 0xFF\n"),
    ([0xB0], 0, .truncImm, "Error: instruction truncated at end of stream.\n")] : List Vector1),
    shown (step (loaded v.1)) = some v.2 := by decide

/-- 95_test_vectors.md the even rows I2 to I32, I34, I35 and I37 to I39, one step under CONSUME. -/
theorem test_immediate_moves_consume : ∀ v ∈ ([
    ([0xB0, 0xC0, 0x05], 3, .none, "CS:0   MOV AX, 0x05\n"),
    ([0xB1, 0xC0, 0x7F], 3, .none, "CS:0   MOV CX, 0x7F\n"),
    ([0xB2, 0xC0, 0x80], 3, .none, "CS:0   MOV DX, 0x80\n"),
    ([0xB3, 0xC0, 0xFF], 3, .none, "CS:0   MOV BX, 0xFF\n"),
    ([0xB4, 0xC0, 0x05], 3, .none, "CS:0   MOV SP, 0x05\n"),
    ([0xB5, 0xC0, 0x7F], 3, .none, "CS:0   MOV BP, 0x7F\n"),
    ([0xB6, 0xC0, 0x80], 3, .none, "CS:0   MOV SI, 0x80\n"),
    ([0xB7, 0xC0, 0xFF], 3, .none, "CS:0   MOV DI, 0xFF\n"),
    ([0xB8, 0xC0, 0x05], 3, .none, "CS:0   MOV AX, 0x05\n"),
    ([0xB9, 0xC0, 0x7F], 3, .none, "CS:0   MOV CX, 0x7F\n"),
    ([0xBA, 0xC0, 0x80], 3, .none, "CS:0   MOV DX, 0x80\n"),
    ([0xBB, 0xC0, 0xFF], 3, .none, "CS:0   MOV BX, 0xFF\n"),
    ([0xBC, 0xC0, 0x05], 3, .none, "CS:0   MOV SP, 0x05\n"),
    ([0xBD, 0xC0, 0x7F], 3, .none, "CS:0   MOV BP, 0x7F\n"),
    ([0xBE, 0xC0, 0x80], 3, .none, "CS:0   MOV SI, 0x80\n"),
    ([0xBF, 0xC0, 0xFF], 3, .none, "CS:0   MOV DI, 0xFF\n"),
    ([0xB8, 0x06, 0x34, 0x12, 0x07], 5, .none, "CS:0   MOV AX, 0x07\n"),
    ([0xB9, 0x45, 0x10, 0x09], 4, .none, "CS:0   MOV CX, 0x09\n"),
    ([0xB0], 0, .truncModrm, "Error: instruction truncated at end of stream.\n"),
    ([0xB0, 0xC0], 0, .truncImm, "Error: instruction truncated at end of stream.\n"),
    ([0xB7, 0x86, 0x01], 0, .truncDisp, "Error: instruction truncated at end of stream.\n")] : List Vector1),
    shown (step (loadedConsume v.1)) = some v.2 := by decide

/-- 95_test_vectors.md MI1 to MI5 and MI7 to MI9, one step. -/
theorem test_immediate_to_memory : ∀ v ∈ ([
    ([0xC6, 0x06, 0x34, 0x12, 0x07], 5, .none, "CS:0   MOV AX, [0x1234] 0x07\n"),
    ([0xC6, 0xC8, 0x01], 3, .none, "CS:0   MOV CX, AX 0x01\n"),
    ([0xC6, 0x07, 0xFF], 3, .none, "CS:0   MOV AX, [BX] 0xFF\n"),
    ([0xC6, 0x46, 0xFE, 0x80], 4, .none, "CS:0   MOV AX, [BP-0x02] 0x80\n"),
    ([0xC7, 0x87, 0x00, 0x01, 0xFF], 5, .none, "CS:0   MOV AX, [BX+0x0100] 0xFF\n"),
    ([0xC7, 0xC0], 0, .truncImm, "Error: instruction truncated at end of stream.\n"),
    ([0xC6, 0x06, 0x34, 0x12], 0, .truncImm, "Error: instruction truncated at end of stream.\n"),
    ([0xC7, 0x47], 0, .truncDisp, "Error: instruction truncated at end of stream.\n")] : List Vector1),
    shown (step (loaded v.1)) = some v.2 := by decide

/-- 95_test_vectors.md J1 to J17, one step. -/
theorem test_short_jumps : ∀ v ∈ ([
    ([0x70, 0x05], 2, .none, "CS:0   JO 0x07\n"),
    ([0x71, 0xFE], 2, .none, "CS:0   JNO 0x00\n"),
    ([0x72, 0x80], 2, .none, "CS:0   JB -0x7E\n"),
    ([0x73, 0x7F], 2, .none, "CS:0   JAE 0x81\n"),
    ([0x74, 0x00], 2, .none, "CS:0   JE 0x02\n"),
    ([0x75, 0xFF], 2, .none, "CS:0   JNE 0x01\n"),
    ([0x76, 0x10], 2, .none, "CS:0   JBE 0x12\n"),
    ([0x77, 0xF0], 2, .none, "CS:0   JA -0x0E\n"),
    ([0x78, 0x02], 2, .none, "CS:0   JS 0x04\n"),
    ([0x79, 0x01], 2, .none, "CS:0   JNS 0x03\n"),
    ([0x7A, 0x81], 2, .none, "CS:0   JP -0x7D\n"),
    ([0x7B, 0x40], 2, .none, "CS:0   JNP 0x42\n"),
    ([0x7C, 0xC0], 2, .none, "CS:0   JL -0x3E\n"),
    ([0x7D, 0x20], 2, .none, "CS:0   JGE 0x22\n"),
    ([0x7E, 0xE0], 2, .none, "CS:0   JLE -0x1E\n"),
    ([0x7F, 0x03], 2, .none, "CS:0   JG 0x05\n"),
    ([0x74], 1, .none, "CS:0   JE 0x00\n")] : List Vector1),
    shown (step (loaded v.1)) = some v.2 := by decide

/-- 95_test_vectors.md J20 to J30, one step. -/
theorem test_wide_jumps : ∀ v ∈ ([
    ([0xEB, 0x05], 2, .none, "CS:0   JMP SHORT 0x07\n"),
    ([0xEB, 0xFC], 2, .none, "CS:0   JMP SHORT -0x02\n"),
    ([0xEB, 0xFE], 2, .none, "CS:0   JMP SHORT 0x00\n"),
    ([0xE9, 0x00, 0x01], 3, .none, "CS:0   JMP 0x103\n"),
    ([0xE9, 0xFD, 0xFF], 3, .none, "CS:0   JMP 0x00\n"),
    ([0xE9, 0x00, 0x80], 3, .none, "CS:0   JMP -0x7FFD\n"),
    ([0xE9, 0xFF, 0x7F], 3, .none, "CS:0   JMP 0x8002\n"),
    ([0xE9, 0x05], 2, .none, "CS:0   JMP 0x00\n"),
    ([0xEA, 0x01, 0x00, 0x00, 0x00, 0x00, 0x00, 0x00, 0x00], 9, .none, "CS:0   JMP FAR 0x0A\n"),
    ([0xEA, 0xFF, 0xFF, 0xFF, 0xFF, 0xFF, 0xFF, 0xFF, 0xFF], 9, .none, "CS:0   JMP FAR 0x10000000000000008\n"),
    ([0xEA, 0x00, 0x7C, 0x00, 0x00], 5, .none, "CS:0   JMP FAR 0x00\n")] : List Vector1),
    shown (step (loaded v.1)) = some v.2 := by decide

/-- 95_test_vectors.md S1a, S2a: a skip prints nothing. -/
theorem test_skips : ∀ bs ∈ ([[0x90], [0x00]] : List (List Byte)),
    shown (step (loaded bs)) = some (1, .none, "") := by decide

/-- 95_test_vectors.md SK1: an empty stream halts at once. -/
theorem test_empty_stream : shown (step (loaded [])) = some (0, .exhausted, "") := by decide

/-- 95_test_vectors.md S6: a jump at offset 10. -/
theorem test_jump_at_offset_ten :
    shown (step { loaded [0, 0, 0, 0, 0, 0, 0, 0, 0, 0, 0x74, 0x02] with cursor := 10 }) =
      some (12, .none, "CS:10   JE 0x0E\n") := by decide

/-- 95_test_vectors.md J19: a negative target does not wrap. -/
theorem test_negative_target :
    shown (step { loaded [0, 0, 0, 0, 0, 0, 0, 0, 0, 0, 0x7C, 0x80] with cursor := 10 }) =
      some (12, .none, "CS:10   JL -0x74\n") := by decide

/-- 95_test_vectors.md S9b: a truncation keeps the records and the cursor. -/
theorem test_truncation_after_a_line : shown (step afterClc) =
    some (1, .truncModrm, "CS:0   CLC\nError: instruction truncated at end of stream.\n") := by decide

/-- 95_test_vectors.md I41: CONSUME takes the next opcode byte as an immediate. -/
theorem test_consume_takes_the_next_byte : shown (step (loadedConsume [0xB0, 0x05, 0xB0, 0x05])) =
    some (3, .none, "CS:0   MOV AX, 0xB0\n") := by decide

/-- 42_data_movement.md rule R149: under no configuration is a line suppressed, not even where UNRESOLVED is "AX". -/
theorem test_line_kept_where_the_marker_spells_a_register :
    shown (step { loaded [0x8B, 0xC0] with config := { defaultConfiguration with unresolved := "AX" } }) =
      some (2, .none, "CS:0   MOV AX, AX\n") := by decide

/-- 42_data_movement.md rule R149: the check itself, on two markers. -/
theorem test_suppressed_line :
    shown (.next (printMov .unresolved .unresolved 1 (loaded [0x8B, 0xC0]))) = some (2, .none, "") ∧
    regOperand 8 = .unresolved := by decide

/-- 40_dispatch.md rules R84, R85, R87: opcodes that a configuration adds. -/
theorem test_added_opcodes :
    shown (step (loadedWide [0x90])) = some (1, .none, "CS:0   NOP\n") ∧
    shown (step (loadedWide [0xE2, 0xFE])) = some (2, .none, "CS:0   LOOP 0x00\n") ∧
    shown (step (loadedWide [0x8C, 0xD8])) = some (2, .none, "CS:0   MOV BX, AX\n") := by decide

/-- The word of a table row runs as the first instruction after reset. -/
theorem test_fetch_word :
    decodeTableWord 16 0x0274 = some (.je (.rel8 2)) ∧
    shown (step (State.reset.withFetchWord 16 0x0274)) = some (2, .none, "CS:0   JE 0x04\n") ∧
    decodeTableWord 8 0xC6 = some (.movC6 (.modrmImm { reg := 0, rm := .indirect 0 } 0)) := by decide

/-- 10_state.md rules R30, R32: the status fields. -/
theorem test_status : State.reset.status = { fsm := 0, cause := 0, cursor := 0 } ∧
    afterClc.haltExhausted.status = { fsm := 2, cause := 1, cursor := 1 } := by decide

/-! ### Witnesses: states and operands that meet the hypotheses of each obligation -/

theorem loaded_inv (bs : List Byte) : (loaded bs).Inv where
  stream_wf := ofBytes_wf bs
  cursor_le := Nat.zero_le _
  halted_iff_cause := .inl ⟨rfl, rfl⟩
  exhausted_at_end := fun h => by cases h
  truncated_inside := fun h => by cases h
  offsets_increase := List.Pairwise.nil
  offsets_before_cursor := fun o h => by cases h
  diagnostic_last := fun h => by cases h
  no_diagnostic := fun _ h => by cases h

theorem afterClc_inv : afterClc.Inv where
  stream_wf := ofBytes_wf _
  cursor_le := by decide
  halted_iff_cause := .inl ⟨rfl, rfl⟩
  exhausted_at_end := fun h => by cases h
  truncated_inside := fun h => by cases h
  offsets_increase := by decide
  offsets_before_cursor := by decide
  diagnostic_last := fun h => by cases h
  no_diagnostic := by decide

/-- Whether a step answers a next state with this control state and cause. -/
def answers (o : Host.Outcome State Fault Refusal) (f : Fsm) (c : Cause) : Prop :=
  ∃ t, o = .next t ∧ t.fsm = f ∧ t.cause = c

/-- Operands and cut-off bytes that the data-movement statements quantify over: a register form, the forms with 0, 1 and 2
displacement bytes, and a displacement that lacks its last byte. -/
abbrev modrmOperandsExist : Prop :=
  (∀ r ∈ ([.reg 7, .direct 0xFFFF, .indirect 5, .disp8 6 0x80, .disp16 6 0xFFFF] : List RmOperand),
    r.wellFormed = true) ∧
  (([] : List Byte).length < dispSize 0x46 ∧ ([5] : List Byte).length < dispSize 0x06 ∧
    ([5] : List Byte).length < dispSize 0x86) ∧
  (([] : List Byte).length = dispSize 0xC0 ∧ ([5] : List Byte).length = dispSize 0x46 ∧
    ([5, 6] : List Byte).length = dispSize 0x06)

theorem witness_StepFollowsThePseudocode :
    (loaded []).fsm = .scanning ∧ afterClc.fsm = .scanning ∧ (loadedWide [0x90]).fsm = .scanning := by decide

theorem witness_InvariantKeptByEveryStep :
    (afterClc.Inv ∧ answers (step afterClc) .halted .truncModrm) ∧
    ((loaded [0xF4]).Inv ∧ answers (step (loaded [0xF4])) .scanning .none) ∧
    ((loaded []).Inv ∧ answers (step (loaded [])) .halted .exhausted) :=
  ⟨⟨afterClc_inv, _, rfl, rfl, rfl⟩, ⟨loaded_inv _, _, rfl, rfl, rfl⟩, ⟨loaded_inv _, _, rfl, rfl, rfl⟩⟩

theorem witness_LoadedResetStatesAreInvariant :
    afterClc.haltExhausted.stream.wf ∧ afterClc.haltExhausted.fsm = .halted ∧ afterClc.haltExhausted.out ≠ [] := by decide

/-- The cursor at N, before the last byte, and at a truncated instruction. -/
theorem witness_ScanningStepsDescendToAHalt :
    ((loaded []).Inv ∧ (loaded []).fsm = .scanning ∧ (loaded []).cursor = (loaded []).stream.length) ∧
    ((loaded [0xF4]).Inv ∧ (loaded [0xF4]).fsm = .scanning ∧ (loaded [0xF4]).cursor + 1 = (loaded [0xF4]).stream.length) ∧
    (afterClc.Inv ∧ afterClc.fsm = .scanning) :=
  ⟨⟨loaded_inv _, by decide, by decide⟩, ⟨loaded_inv _, by decide, by decide⟩, ⟨afterClc_inv, by decide⟩⟩

theorem witness_DecodeReadsBackEveryCompleteEncoding :
    (∀ i ∈ ([.sentinel 0, .hlt, .je (.rel8 0x80), .jmp (.rel16 0xFFFF), .jmpFar (.far64 0x8000000000000000),
        .mov88 (.modrm { reg := 7, rm := .disp16 6 0xFFFF }), .movC6 (.modrmImm { reg := 0, rm := .direct 0 } 0xFF),
        .movBF (.imm 0xFF), .unrecognized 0xFF] : List Instr),
      i.wellFormed defaultConfiguration = true ∧ i.complete = true) ∧
    ∀ i ∈ ([.fixedOp 0x90, .jumpOp 0xE2 (.rel8 0), .movOp 0x8C (.modrm { reg := 0, rm := .reg 0 })] : List Instr),
      i.wellFormed wideConfiguration = true ∧ i.complete = true := by decide

theorem witness_DecodeReadsBackEncodingsAtStreamEnd :
    ∀ i ∈ ([.jg (.short .one []), .jmpFar (.short .eight [1, 2, 3, 4, 5, 6, 7]), .mov8B (.truncated .disp [0x86, 1]),
        .movC7 (.truncated .imm [0xC0]), .movB0 (.truncated .imm []), .mov88 (.truncated .modrm []), .hlt] : List Instr),
      i.wellFormed defaultConfiguration = true := by decide

theorem witness_DecodedInstructionsAreWellFormedPrefixes :
    decode defaultConfiguration [0xF4, 0x90] = .ok .hlt ∧
    decode defaultConfiguration [0x8B, 0x06] = .ok (.mov8B (.truncated .disp [0x06])) ∧
    Instr.complete (.mov8B (.truncated .disp [0x06])) = false := by decide

theorem witness_StepRunsTheDecodedInstruction :
    (afterClc.fsm = .scanning ∧ afterClc.cursor < afterClc.stream.length) ∧
    decode afterClc.config (afterClc.stream.bytesFrom afterClc.cursor) = .ok (.mov89 (.truncated .modrm [])) := by decide

theorem witness_LengthIsToldByOpcodeAndModRm :
    ∀ bs ∈ ([[0x90], [0xF4], [0x74, 5], [0xEA, 1, 2, 3, 4, 5, 6, 7, 8], [0x8B, 0x86, 1, 2], [0xC6, 0x06, 1, 2, 3],
        [0xB0, 5]] : List (List Byte)),
      let s := loaded bs
      s.fsm = .scanning ∧
      s.cursor + lengthFromOpcode s.config (s.stream.cell s.cursor) (s.stream.cell (s.cursor + 1)) = s.stream.length := by
  decide

theorem witness_ModRmFieldsAndDisplacement :
    ([] : List Byte).length = dispSize 0xFF ∧ ([0x34, 0x12] : List Byte).length = dispSize 0x06 ∧
    ([] : List Byte).length = dispSize 0x05 ∧ ([0x80] : List Byte).length = dispSize 0x46 ∧
    ([0xFF, 0xFF] : List Byte).length = dispSize 0xBF := by decide

theorem witness_SentinelRunsAreSkippedSilently :
    (loaded [0, 0, 0xF4]).fsm = .scanning ∧
    ∀ k, k < 2 → (loaded [0, 0, 0xF4]).stream.byteAt ((loaded [0, 0, 0xF4]).cursor + k) =
      some (loaded [0, 0, 0xF4]).config.sentinel := by decide

theorem witness_UnrecognizedBytesAreSkippedSilently :
    let s := loaded [0x90]
    (s.fsm = .scanning ∧ s.cursor < s.stream.length) ∧ s.stream.byteAt s.cursor = some 0x90 ∧
    (0x90 : Byte) ≠ s.config.sentinel ∧ s.config.fixedTable.lookup 0x90 = none ∧ (0x90 : Byte) ∉ s.config.movSet := by decide

theorem witness_FlagInstructionsPrintTheirMnemonic : ∀ op ∈ ([0x9C, 0x9D, 0x9E, 0x9F, 0xF5, 0xF8, 0xF9, 0xFA, 0xFB, 0xFC, 0xFD] : List Byte),
    isFixedOpcode defaultConfiguration op = true ∧ isFixedOpcode wideConfiguration op = true ∧
      ((loaded [op]).config.fixedTable.lookup op).isSome = true := by decide

theorem witness_StringInstructionsPrintTheirMnemonic : ∀ op ∈ ([0xA4, 0xA5, 0xA6, 0xA7, 0xAA, 0xAB, 0xAC, 0xAD, 0xAE, 0xAF] : List Byte),
    isFixedOpcode defaultConfiguration op = true ∧ isFixedOpcode wideConfiguration op = true ∧
      ((loaded [op]).config.fixedTable.lookup op).isSome = true := by decide

theorem witness_InterruptPrefixAndHaltOpcodesPrintTheirMnemonic : ∀ op ∈ ([0xCC, 0xCE, 0xCF, 0xF0, 0xF2, 0xF3, 0xF4] : List Byte),
    isFixedOpcode defaultConfiguration op = true ∧ isFixedOpcode wideConfiguration op = true ∧
      ((loaded [op]).config.fixedTable.lookup op).isSome = true := by decide

theorem witness_EveryFixedOpcodePrintsUnmodified :
    let s := loadedWide [0x90]
    (s.fsm = .scanning ∧ s.cursor < s.stream.length) ∧ s.stream.byteAt s.cursor = some 0x90 ∧
    (0x90 : Byte) ≠ s.config.sentinel ∧ s.config.fixedTable.lookup 0x90 = some "NOP" ∧
    s.config.jumpWidth.lookup 0x90 = none := by decide

theorem witness_ConditionalJumpsOverflowToAbove : ∀ op ∈ ([0x70, 0x71, 0x72, 0x73, 0x74, 0x75, 0x76, 0x77] : List Byte),
    isJumpOpcode defaultConfiguration op .one = true ∧ isJumpOpcode wideConfiguration op .one = true ∧
      ((loaded [op]).config.fixedTable.lookup op).isSome = true := by decide

theorem witness_ConditionalJumpsSignToGreater : ∀ op ∈ ([0x78, 0x79, 0x7A, 0x7B, 0x7C, 0x7D, 0x7E, 0x7F] : List Byte),
    isJumpOpcode defaultConfiguration op .one = true ∧ isJumpOpcode wideConfiguration op .one = true ∧
      ((loaded [op]).config.fixedTable.lookup op).isSome = true := by decide

theorem witness_UnconditionalJumpsPrintTheirTarget :
    isJumpOpcode defaultConfiguration 0xEB .one = true ∧ isJumpOpcode defaultConfiguration 0xE9 .two = true ∧
    isJumpOpcode defaultConfiguration 0xEA .eight = true ∧
    (∀ op ∈ ([0xEB, 0xE9, 0xEA] : List Byte), ((loaded [op]).config.fixedTable.lookup op).isSome = true) ∧
    (([] : List Byte).length < 2 ∧ ([5] : List Byte).length < 2 ∧ ([1, 2, 3, 4, 5, 6, 7] : List Byte).length < 8) := by
  decide

theorem witness_EveryJumpConstructorAtEveryWidth :
    ((0x74#8, Instr.je) ∈ jumpRows ∧ (loaded []).config.fixedTable.lookup 0x74 = some "JE") ∧
    ((0xEA#8, Instr.jmpFar) ∈ jumpRows ∧ (loaded []).config.fixedTable.lookup 0xEA = some "JMP FAR") ∧
    ((∃ op : Byte, (0xE2#8, Instr.jumpOp 0xE2) = (op, Instr.jumpOp op)) ∧
      (loadedWide []).config.fixedTable.lookup 0xE2 = some "LOOP") ∧
    (JumpField.far64 0xFFFFFFFFFFFFFFFF).complete = true ∧ (JumpField.rel16 0x8000).complete = true ∧
    (JumpField.rel8 0x80).complete = true ∧ (JumpField.short .eight [1, 2, 3, 4, 5, 6, 7]).complete = false :=
  ⟨⟨by simp [jumpRows], by decide⟩, ⟨by simp [jumpRows], by decide⟩, ⟨⟨_, rfl⟩, by decide⟩, by decide⟩

theorem witness_JumpStepReadsItsFieldFromTheStream :
    ∀ v ∈ ([([0xE9, 0x00, 0x80], true), ([0xE9, 0x00], false)] : List (List Byte × Bool)),
      let s := loaded v.1
      (s.fsm = .scanning ∧ s.cursor < s.stream.length) ∧ s.stream.byteAt s.cursor = some 0xE9 ∧
      (0xE9 : Byte) ≠ s.config.sentinel ∧ s.config.fixedTable.lookup 0xE9 = some "JMP" ∧
      s.config.jumpWidth.lookup 0xE9 = some .two ∧
      (v.2 = true → s.cursor + 1 + JumpWidth.two.bytes = s.stream.length) ∧
      (v.2 = false → s.stream.length + 1 = s.cursor + 1 + JumpWidth.two.bytes) := by decide

theorem witness_JumpShortfallEndsTheRunExhausted :
    let s := loaded [0xEA, 1, 2, 3, 4, 5, 6, 7]
    (s.fsm = .scanning ∧ s.cursor < s.stream.length) ∧ s.stream.byteAt s.cursor = some 0xEA ∧
    (0xEA : Byte) ≠ s.config.sentinel ∧ s.config.fixedTable.lookup 0xEA = some "JMP FAR" ∧
    s.config.jumpWidth.lookup 0xEA = some .eight ∧
    s.stream.length < s.cursor + 1 + JumpWidth.eight.bytes := by decide

theorem witness_RegisterMemoryMovesPrintRegThenRm :
    (∀ op ∈ ([0x88, 0x89, 0x8A, 0x8B] : List Byte), isMovOpcode defaultConfiguration op = true) ∧
    modrmOperandsExist := by decide

theorem witness_ImmediateToMemoryMovesAppendTheImmediate :
    (∀ op ∈ ([0xC6, 0xC7] : List Byte), isMovOpcode defaultConfiguration op = true) ∧ modrmOperandsExist := by decide

theorem witness_ImmediateToByteRegisterMoves : (∀ op ∈ ([0xB0, 0xB1, 0xB2, 0xB3, 0xB4, 0xB5, 0xB6, 0xB7] : List Byte),
      (isMovOpcode defaultConfiguration op = true ∧ defaultConfiguration.immregModrm = .skip) ∧
      (isMovOpcode consumeConfiguration op = true ∧ consumeConfiguration.immregModrm = .consume)) ∧
    modrmOperandsExist := by decide

theorem witness_ImmediateToWordRegisterMoves : (∀ op ∈ ([0xB8, 0xB9, 0xBA, 0xBB, 0xBC, 0xBD, 0xBE, 0xBF] : List Byte),
      (isMovOpcode defaultConfiguration op = true ∧ defaultConfiguration.immregModrm = .skip) ∧
      (isMovOpcode consumeConfiguration op = true ∧ consumeConfiguration.immregModrm = .consume)) ∧
    modrmOperandsExist := by decide

theorem witness_AddedMoveOpcodesTakeTheModRmPath :
    (0x8C : Byte) ∉ movOpcodes ∧ isMovOpcode wideConfiguration 0x8C = true ∧ modrmOperandsExist := by decide

theorem witness_RmOperandTexts :
    registerTable[(6 : BitVec 3).toNat]? = some "SI" ∧ rmTable[(6 : BitVec 3).toNat]? = some "BP" ∧
    (0x7F : BitVec 8).toNat < 128 ∧ 128 ≤ (0x80 : BitVec 8).toNat := by decide

theorem witness_RegisterTableWithFallback : 8 ≤ 8 := by decide

theorem witness_MoveLinesAreNotSuppressed :
    (0xC6#8, Instr.movC6) ∈ movRows ∧ (∃ op : Byte, (0x8C#8, Instr.movOp 0x8C) = (op, Instr.movOp op)) ∧
    (MovOperands.modrmImm { reg := 7, rm := .disp16 6 0 } 5).complete = true ∧
    (MovOperands.modrm { reg := 0, rm := .reg 0 }).complete = true :=
  ⟨by simp [movRows], ⟨_, rfl⟩, by decide, by decide⟩

/-- One state for each cause, each one byte short, and one that goes on. -/
theorem witness_TruncationNamesTheFirstMissingField :
    ((loaded []).Inv ∧ answers (step (loaded [])) .halted .exhausted) ∧
    (afterClc.Inv ∧ answers (step afterClc) .halted .truncModrm) ∧
    ((loaded [0x8B, 0x86, 1]).Inv ∧ answers (step (loaded [0x8B, 0x86, 1])) .halted .truncDisp) ∧
    ((loaded [0xC6, 0xC0]).Inv ∧ answers (step (loaded [0xC6, 0xC0])) .halted .truncImm) ∧
    ((loaded [0xB0]).Inv ∧ answers (step (loaded [0xB0])) .halted .truncImm) ∧
    ((loaded [0xC6, 0xC0, 5]).Inv ∧ answers (step (loaded [0xC6, 0xC0, 5])) .scanning .none) :=
  ⟨⟨loaded_inv _, _, rfl, rfl, rfl⟩, ⟨afterClc_inv, _, rfl, rfl, rfl⟩, ⟨loaded_inv _, _, rfl, rfl, rfl⟩,
    ⟨loaded_inv _, _, rfl, rfl, rfl⟩, ⟨loaded_inv _, _, rfl, rfl, rfl⟩, ⟨loaded_inv _, _, rfl, rfl, rfl⟩⟩

theorem witness_EventsAreRaisedByClassAlone :
    afterClc.Inv ∧ afterClc.cursor < afterClc.stream.length ∧ answers (step afterClc) .halted .truncModrm :=
  ⟨afterClc_inv, by decide, _, rfl, rfl, rfl⟩

theorem witness_StepAppendsAtMostOneRecord :
    answers (step (loaded [0x00])) .scanning .none ∧ answers (step (loaded [0xF4])) .scanning .none ∧
    answers (step afterClc) .halted .truncModrm :=
  ⟨⟨_, rfl, rfl, rfl⟩, ⟨_, rfl, rfl, rfl⟩, ⟨_, rfl, rfl, rfl⟩⟩

theorem witness_CursorOnlyMovesForward :
    ((loaded [0xF4]).cursor ≤ (loaded [0xF4]).stream.length ∧ answers (step (loaded [0xF4])) .scanning .none ∧
      decode (loaded [0xF4]).config ((loaded [0xF4]).stream.bytesFrom 0) = .ok .hlt) ∧
    ((loaded [0xE9, 5]).cursor ≤ (loaded [0xE9, 5]).stream.length ∧
      answers (step (loaded [0xE9, 5])) .scanning .none ∧
      decode (loaded [0xE9, 5]).config ((loaded [0xE9, 5]).stream.bytesFrom 0) = .ok (.jmp (.short .two [5])) ∧
      Instr.complete (.jmp (.short .two [5])) = false) :=
  ⟨⟨by decide, ⟨_, rfl, rfl, rfl⟩, by decide⟩, ⟨by decide, ⟨_, rfl, rfl, rfl⟩, by decide, by decide⟩⟩

theorem witness_CompleteInstructionsTouchCursorAndOutputOnly :
    (Instr.complete .hlt = true ∧ answers (exec .hlt (loaded [0xF4])) .scanning .none) ∧
    (Instr.complete (.movB0 (.imm 5)) = true ∧ answers (exec (.movB0 (.imm 5)) (loaded [0xB0, 5])) .scanning .none) :=
  ⟨⟨by decide, _, rfl, rfl, rfl⟩, ⟨by decide, _, rfl, rfl, rfl⟩⟩

theorem witness_StreamAndConfigurationAreNeverWritten :
    answers (step (loadedWide [0xE2, 5])) .scanning .none ∧ answers (step afterClc) .halted .truncModrm :=
  ⟨⟨_, rfl, rfl, rfl⟩, ⟨_, rfl, rfl, rfl⟩⟩

theorem witness_ScanningAlwaysHasANextState :
    (loaded []).fsm = .scanning ∧ { loaded [] with cursor := 5 }.fsm = .scanning := by decide

theorem witness_WellFormedInstructionsComplete :
    (∀ i ∈ ([.sentinel 0, .hlt, .je (.short .one []), .mov88 (.truncated .modrm []), .unrecognized 1] : List Instr),
      i.wellFormed (loaded []).config = true) ∧
    Instr.wellFormed (loadedWide []).config (.fixedOp 0x90) = true := by decide

theorem witness_HaltedHasNoStep : afterClc.haltExhausted.fsm = .halted := by decide

theorem witness_ExhaustionHaltsWithoutARecord :
    { afterClc with cursor := 2 }.fsm = .scanning ∧
    { afterClc with cursor := 2 }.cursor = { afterClc with cursor := 2 }.stream.length := by decide

/-- Bytes that stand in several tables at once, one for each clause. -/
theorem witness_ClassificationOrder :
    let c : Configuration := { defaultConfiguration with
      sentinel := 0xF4, movSet := [0xF4, 0xF5, 0x74, 0x88], jumpWidth := [(0x74, .one), (0xF4, .one), (0x90, .two)] }
    c.sentinel = 0xF4 ∧
    ((0x74 : Byte) ≠ c.sentinel ∧ c.fixedTable.lookup 0x74 = some "JE" ∧ c.jumpWidth.lookup 0x74 = some .one) ∧
    ((0xF5 : Byte) ≠ c.sentinel ∧ c.fixedTable.lookup 0xF5 = some "CMC" ∧ c.jumpWidth.lookup 0xF5 = none) ∧
    ((0x88 : Byte) ≠ c.sentinel ∧ c.fixedTable.lookup 0x88 = none ∧ (0x88 : Byte) ∈ c.movSet) ∧
    ((0x90 : Byte) ≠ c.sentinel ∧ c.fixedTable.lookup 0x90 = none ∧ (0x90 : Byte) ∉ c.movSet) := by decide

/-- Two configurations that differ in every text. -/
theorem witness_DecodingDependsOnKeysAndModeOnly :
    let a : Configuration := { defaultConfiguration with
      fixedTable := [(0xF4, "HLT"), (0x74, "JE")], jumpWidth := [(0x74, .one)], movSet := [0x88, 0xB0] }
    let b : Configuration := { a with
      fixedTable := [(0x74, "JZ"), (0xF4, "HALT")], movSet := [0xB0, 0x88], truncMsg := "", unresolved := "AX",
      movMnemonic := "mov" }
    a.sentinel = b.sentinel ∧ (∀ op, op ∈ a.movSet ↔ op ∈ b.movSet) ∧
    (∀ op, (a.fixedTable.lookup op).isSome = (b.fixedTable.lookup op).isSome) ∧
    (∀ op, a.jumpWidth.lookup op = b.jumpWidth.lookup op) ∧ a.immregModrm = b.immregModrm ∧ a ≠ b := by decide

theorem witness_NumbersPrintAsTheirDigits :
    (0 ≤ 255 ∧ 255 ≤ 255) ∧ (0 ≤ 65535 ∧ 65535 ≤ 65535) ∧ ((0 : Int) ≤ 0) ∧ ((-1 : Int) < 0) := by decide

/-- The values at which the clauses of the number texts meet (00_scope.md rule R13). -/
theorem test_number_texts : hex2 0 = "0x00" ∧ hex2 255 = "0xFF" ∧ hex4 65535 = "0xFFFF" ∧ hexmin2 0 = "0x00" ∧
    hexmin2 0x103 = "0x103" ∧ dec 0 = "0" ∧ dec 10 = "10" ∧ shex 0 = "0x00" ∧ shex (-126) = "-0x7E" := by decide

end Sys2Proof.Tests
end

section
/-! SUPPORT. The number texts of 00_scope.md rule R13: the model's digits are Mathlib's `Nat.digits`, written most
significant first, and each formatting primitive prints the padded digits of its number. -/

namespace Sys2Proof.Machine

open Sys2Proof.Claims

/-! ### One digit -/

theorem getElem?_hexDigits {d : Nat} (h : d < 16) : hexDigits[d]? = some (digitChar d) := by
  revert d; decide

theorem idxOf_digitChar {d : Nat} (h : d < 16) : hexDigits.idxOf (digitChar d) = d := by
  revert d; decide

theorem digitChar_eq_zero_iff {d : Nat} (h : d < 16) : digitChar d = '0' ↔ d = 0 := by
  revert d; decide

theorem digitChar_mem_take {base d : Nat} (hbase : base ≤ 16) (hd : d < base) :
    digitChar d ∈ hexDigits.take base := by
  refine List.mem_of_getElem? (i := d) ?_
  rw [List.getElem?_take_of_lt hd, getElem?_hexDigits (by omega)]

/-! ### The digits of a number -/

/-- The characters of digits given least significant first. -/
def digitText (ds : List Nat) : List Char := ds.reverse.map digitChar

/-- The text of `v` in a base, padded with zeros to at least `least` digits. -/
def paddedText (base least v : Nat) : List Char := digitText (Nat.digitsAppend base least v)

@[simp] theorem digitText_nil : digitText [] = [] := rfl

@[simp] theorem length_digitText (ds : List Nat) : (digitText ds).length = ds.length := by simp [digitText]

@[simp] theorem head?_digitText (ds : List Nat) : (digitText ds).head? = ds.getLast?.map digitChar := by
  simp [digitText]

@[simp] theorem length_paddedText (base least v : Nat) :
    (paddedText base least v).length = max least (Nat.digits base v).length := by
  simp only [paddedText, length_digitText, Nat.digitsAppend, List.length_append, List.length_replicate]
  omega

@[simp] theorem digitText_cons (d : Nat) (ds : List Nat) : digitText (d :: ds) = digitText ds ++ [digitChar d] := by
  simp [digitText]

/-- Read as a numeral, the text denotes the number its digits stand for. -/
theorem valueOf_digitText (base : Nat) {ds : List Nat} (h : ∀ d ∈ ds, d < 16) :
    valueOf base (digitText ds) = Nat.ofDigits base ds := by
  induction ds with
  | nil => rfl
  | cons d ds ih =>
    rw [List.forall_mem_cons] at h
    have hcons : valueOf base (digitText (d :: ds)) = base * valueOf base (digitText ds) + d := by
      simp [valueOf, idxOf_digitChar h.1]
    rw [hcons, ih h.2, Nat.ofDigits_cons, Nat.add_comm]

/-- The model's loop puts the digits of `v` before `acc`, given fuel enough. -/
theorem digitsOnto_eq {base : Nat} (hb : 1 < base) {fuel v : Nat} (acc : List Char) (hv : v < base ^ fuel) :
    digitsOnto base fuel v acc = digitText (Nat.digits base v) ++ acc := by
  induction fuel generalizing v acc with
  | zero =>
    obtain rfl : v = 0 := by simpa using hv
    simp [digitsOnto]
  | succ fuel ih =>
    by_cases h0 : v = 0
    · subst h0
      simp [digitsOnto]
    · have hdiv : v / base < base ^ fuel := Nat.div_lt_of_lt_mul (by rwa [← Nat.pow_succ'])
      rw [digitsOnto, if_neg h0, ih _ hdiv, Nat.digits_def' hb (Nat.pos_of_ne_zero h0), digitText_cons,
        List.append_assoc, List.singleton_append]

/-- `log2 v + 1` fuel is enough in every base from 2 on. -/
theorem digits_eq {base : Nat} (hb : 1 < base) (v : Nat) : digits base v = digitText (Nat.digits base v) := by
  have hv : v < base ^ (v.log2 + 1) := Nat.lt_log2_self.trans_le (Nat.pow_le_pow_left hb _)
  rw [digits, digitsOnto_eq hb _ hv, List.append_nil]

/-! ### Padding -/

/-- Padding the model's digits on the left is padding Mathlib's on the most significant side. -/
theorem replicate_append_digits {base : Nat} (hb : 1 < base) (least v : Nat) :
    List.replicate (least - (digits base v).length) '0' ++ digits base v = paddedText base least v := by
  simp [digits_eq hb, paddedText, digitText, Nat.digitsAppend, show digitChar 0 = '0' from rfl]

/-- Digits of the wanted number are the padded ones, by uniqueness of a representation of fixed length. -/
theorem digitText_eq_paddedText {base v : Nat} (hb : 1 < base) {ds : List Nat} (hlt : ∀ d ∈ ds, d < base)
    (hv : Nat.ofDigits base ds = v) : digitText ds = paddedText base ds.length v := by
  rw [paddedText, ← hv, (Nat.setInvOn_digitsAppend_ofDigits hb ds.length).1 ⟨rfl, hlt⟩]

theorem length_paddedText_of_lt {base least v : Nat} (hb : 1 < base) (hv : v < base ^ least) :
    (paddedText base least v).length = least := by
  rw [paddedText, length_digitText, Nat.length_digitsAppend hb least hv]

/-- A text longer than the padding asks for has no leading zero: it is not padded at all. -/
theorem head?_paddedText_ne_zero {base least v : Nat} (hb : 1 < base) (hbase : base ≤ 16)
    (hlong : least < (paddedText base least v).length) : (paddedText base least v).head? ≠ some '0' := by
  have hlen : least < (Nat.digits base v).length := by simpa using hlong
  have hne : Nat.digits base v ≠ [] := List.ne_nil_of_length_pos (by omega)
  have hlast : (Nat.digits base v).getLast hne < 16 :=
    (Nat.digits_lt_base hb (List.getLast_mem hne)).trans_le hbase
  have hlead : (Nat.digits base v).getLast hne ≠ 0 :=
    Nat.getLast_digit_ne_zero base (Nat.digits_ne_nil_iff_ne_zero.1 hne)
  simp [paddedText, Nat.digitsAppend, Nat.sub_eq_zero_of_le hlen.le, List.getLast?_eq_some_getLast hne,
    digitChar_eq_zero_iff hlast, hlead]

/-- The padded text is the digits of the number in the sense of the statement, in the bases that have characters. -/
theorem isDigits_paddedText {base : Nat} (hb : 1 < base) (hbase : base ≤ 16) (least v : Nat) :
    IsDigits base least v (paddedText base least v) := by
  have hlt (d : Nat) (hd : d ∈ Nat.digitsAppend base least v) : d < base :=
    Nat.lt_of_mem_digitsAppend hb least d hd
  refine ⟨?value, by simp, ?chars, head?_paddedText_ne_zero hb hbase⟩
  case value =>
    rw [paddedText, valueOf_digitText base fun d hd => (hlt d hd).trans_le hbase, Nat.digitsAppend,
      Nat.ofDigits_append_replicate_zero, Nat.ofDigits_digits]
  case chars =>
    intro c hc
    obtain ⟨d, hd, rfl⟩ := List.mem_map.1 hc
    exact digitChar_mem_take hbase (hlt d (List.mem_reverse.1 hd))

/-! ### The formatting primitives -/

theorem hex2_eq {v : Nat} (hv : v ≤ 255) : hex2 v = "0x" ++ String.ofList (paddedText 16 2 v) := by
  have hval : Nat.ofDigits 16 [v % 16, v / 16 % 16] = v := by
    simp only [Nat.ofDigits_cons, Nat.ofDigits_nil]
    omega
  have htext := digitText_eq_paddedText (by decide) (by simp; omega) hval
  exact congrArg (fun ds => "0x" ++ String.ofList ds) htext

theorem hex4_eq {v : Nat} (hv : v ≤ 65535) : hex4 v = "0x" ++ String.ofList (paddedText 16 4 v) := by
  have hval : Nat.ofDigits 16 [v % 16, v / 16 % 16, v / 256 % 16, v / 4096 % 16] = v := by
    simp only [Nat.ofDigits_cons, Nat.ofDigits_nil]
    omega
  have htext := digitText_eq_paddedText (by decide) (by simp; omega) hval
  exact congrArg (fun ds => "0x" ++ String.ofList ds) htext

theorem hexmin2_eq (v : Nat) : hexmin2 v = "0x" ++ String.ofList (paddedText 16 2 v) := by
  rw [hexmin2, replicate_append_digits (by decide)]

/-- `dec` writes 0 as one digit, which is padding to one digit. -/
theorem dec_eq (v : Nat) : dec v = String.ofList (paddedText 10 1 v) := by
  by_cases h0 : v = 0
  · subst h0
    rfl
  · have hlen : 1 ≤ (digits 10 v).length := by
      rw [digits_eq (by decide), length_digitText]
      exact List.length_pos_of_ne_nil (Nat.digits_ne_nil_iff_ne_zero.2 h0)
    rw [dec, if_neg h0, ← replicate_append_digits (by decide), Nat.sub_eq_zero_of_le hlen, List.replicate_zero,
      List.nil_append]

theorem shex_of_nonneg {v : Int} (h : 0 ≤ v) : shex v = hexmin2 v.toNat := if_pos h

theorem shex_of_neg {v : Int} (h : v < 0) : shex v = "-" ++ hexmin2 (-v).toNat := if_neg (by omega)

/-- Settles O50: every primitive prints the padded digits of its number. -/
theorem numbersPrintAsTheirDigits : Obligations.NumbersPrintAsTheirDigits := by
  unfold Obligations.NumbersPrintAsTheirDigits
  have hhex (least v : Nat) := isDigits_paddedText (base := 16) (by decide) (by decide) least v
  refine ⟨?hex2, ?hex4, ?hexmin2, ?dec, ?shex⟩
  case hex2 => exact fun v hv => ⟨_, hex2_eq hv, hhex 2 v, length_paddedText_of_lt (by decide) (by omega)⟩
  case hex4 => exact fun v hv => ⟨_, hex4_eq hv, hhex 4 v, length_paddedText_of_lt (by decide) (by omega)⟩
  case hexmin2 => exact fun v => ⟨_, hexmin2_eq v, hhex 2 v⟩
  case dec => exact fun v => ⟨_, dec_eq v, isDigits_paddedText (by decide) (by decide) 1 v⟩
  case shex => exact fun v => ⟨shex_of_nonneg, shex_of_neg⟩

end Sys2Proof.Machine
end

section
/-! The opcode grid of 30_encoding.md rule R64 under the default configuration. -/

namespace Sys2Proof

open Sys2Proof.Claims

/-- The defaults keep the conditions of 00_scope.md rule R8. -/
theorem defaultConfiguration_wellFormed : defaultConfiguration.wellFormed = true := by decide

/-- One byte's entry in the grid, by evaluating the classification of each of the 256 bytes. -/
theorem opcodeGrid_entry (op : Byte) : (opcodeGrid[op.toNat / 16]?.bind fun row => row.toList[op.toNat % 16]?) =
    some (gridChar (classify defaultConfiguration op)) := by
  revert op; decide

/-- Settles O46: a finite check, the tables of rules R7 and R8 and the 256 bytes evaluated. -/
theorem defaultOpcodeGrid : Obligations.DefaultOpcodeGrid :=
  ⟨defaultConfiguration_wellFormed, opcodeGrid_entry⟩

end Sys2Proof
end

section
/-! What the decoder reads is what the encoder writes: the encoding of the decoded instruction stands at the front of the
bytes (30_encoding.md rules R56, R58). -/

namespace Sys2Proof

/-! ### The encodings of the rows -/

@[simp] theorem encode_fixedInstr (op : Byte) : encode (fixedInstr op) = [op] := by
  have rows : ∀ row ∈ fixedRows, encode row.2 = [row.1] := by decide
  unfold fixedInstr
  cases hl : fixedRows.lookup op with
  | none => rfl
  | some i => exact rows _ (mem_of_lookup hl)

@[simp] theorem encode_jumpInstr (op : Byte) (f : JumpField) : encode (jumpInstr op f) = op :: f.encoding := by
  have rows : ∀ row ∈ jumpRows, encode (row.2 f) = row.1 :: f.encoding := by
    simp [jumpRows, encode, Instr.opcode, Instr.operandBytes]
  unfold jumpInstr
  cases hl : jumpRows.lookup op with
  | none => rfl
  | some mk => exact rows _ (mem_of_lookup hl)

@[simp] theorem encode_movInstr (op : Byte) (o : MovOperands) : encode (movInstr op o) = op :: o.encoding := by
  have rows : ∀ row ∈ movRows, encode (row.2 o) = row.1 :: o.encoding := by
    simp [movRows, encode, Instr.opcode, Instr.operandBytes]
  unfold movInstr
  cases hl : movRows.lookup op with
  | none => rfl
  | some mk => exact rows _ (mem_of_lookup hl)

/-! ### The operand bytes that are read stand at the front -/

theorem parseJump_encoding_isPrefix (w : JumpWidth) (rest : List Byte) : (parseJump w rest).encoding <+: rest := by
  by_cases h : rest.length < w.bytes
  · rw [parseJump_short h]
    exact List.prefix_rfl
  · obtain ⟨-, -, henc⟩ := parseJump_complete (not_lt.1 h)
    rw [henc]
    exact List.take_prefix _ _

/-- With its displacement there, the ModRM operand is the ModRM byte and that displacement. -/
theorem parseModRm_take_bytes {m : Byte} {more : List Byte} (h : ¬ more.length < dispSize m) :
    (parseModRm m (more.take (dispSize m))).bytes = m :: more.take (dispSize m) :=
  (bytes_of_parseModRm m _ (List.length_take_of_le (not_lt.1 h))).1

theorem parseMov_encoding_isPrefix (mode : ImmregModrm) (op : Byte) (rest : List Byte) :
    (parseMov mode op rest).encoding <+: rest := by
  unfold parseMov
  split
  case isTrue =>
    cases rest with
    | nil => exact List.prefix_rfl
    | cons imm rest => exact ⟨rest, rfl⟩
  case isFalse =>
    cases rest with
    | nil => exact List.prefix_rfl
    | cons m more =>
      by_cases hshort : more.length < dispSize m
      · simp only [if_pos hshort]
        exact List.prefix_rfl
      · have hbytes := parseModRm_take_bytes hshort
        simp only [if_neg hshort]
        split
        case isTrue =>
          split
          case h_1 => exact List.prefix_rfl
          case h_2 imm tail hdrop =>
            refine ⟨tail, ?_⟩
            simp [MovOperands.encoding, hbytes, ← hdrop]
        case isFalse =>
          rw [MovOperands.encoding, hbytes, List.cons_prefix_cons]
          exact ⟨rfl, List.take_prefix _ _⟩

/-- The encoding of what decodes stands at the front of the decoded bytes. -/
theorem encode_isPrefix_of_decode {cfg : Configuration} {bs : List Byte} {i : Instr} (h : decode cfg bs = .ok i) :
    encode i <+: bs := by
  cases bs with
  | nil => cases h
  | cons op rest =>
    cases h
    unfold decodeOpcode
    split
    case h_1 | h_5 => exact ⟨rest, rfl⟩
    case h_2 w _ =>
      rw [encode_jumpInstr, List.cons_prefix_cons]
      exact ⟨rfl, parseJump_encoding_isPrefix w rest⟩
    case h_3 => exact ⟨rest, by simp⟩
    case h_4 =>
      rw [encode_movInstr, List.cons_prefix_cons]
      exact ⟨rfl, parseMov_encoding_isPrefix _ op rest⟩

/-! ### What of the configuration decoding reads (10_state.md rule R29) -/

/-- Only a key of FIXED_TABLE has a class with a mnemonic, the table's (40_dispatch.md rule R82). -/
theorem lookup_of_classify {cfg : Configuration} {op : Byte} {mn : String}
    (h : classify cfg op = .fixed mn ∨ ∃ w, classify cfg op = .jump mn w) : cfg.fixedTable.lookup op = some mn := by
  by_cases hs : op = cfg.sentinel
  · simp [classify, hs] at h
  · cases hf : cfg.fixedTable.lookup op with
    | none => by_cases hm : op ∈ cfg.movSet <;> simp [classify, hs, hf, hm] at h
    | some mn' => cases hw : cfg.jumpWidth.lookup op <;> simpa [classify, hs, hf, hw] using h

/-- Settles O47: the two classes of an opcode differ in their mnemonic at most, and no operand parser reads one. -/
theorem decodingDependsOnKeysAndModeOnly : Obligations.DecodingDependsOnKeysAndModeOnly := by
  unfold Obligations.DecodingDependsOnKeysAndModeOnly
  intro a b hsentinel hmov hfixed hwidth hmode bs
  cases bs with
  | nil => rfl
  | cons op rest =>
    have hkey := hfixed op
    simp only [decode, decodeOpcode, classify, hsentinel, hmov op, hwidth op, hmode]
    by_cases hop : op = b.sentinel
    · simp [hop]
    · cases ha : a.fixedTable.lookup op <;> cases hb : b.fixedTable.lookup op
      case none.none => rfl
      case none.some | some.none => simp [ha, hb] at hkey
      case some.some => cases b.jumpWidth.lookup op <;> simp [hop]

end Sys2Proof
end

section
/-! What every step does, keeps and reaches (10_state.md rules R20 to R35): the invariant, the cursor, the records, the
frame, and the end of every run. -/

namespace Sys2Proof.Machine

open Sys2Proof.Claims

/-! ### What a step can do -/

/-- What a step that answers a next state has done: halted on exhaustion, or run what the rest of the stream decodes to. -/
theorem step_effect {s t : State} (h : step s = .next t) :
    (s.stream.length ≤ s.cursor ∧ t = s.haltExhausted) ∨
      (s.cursor < s.stream.length ∧ ∃ i, decode s.config (s.stream.bytesFrom s.cursor) = .ok i ∧ Effect i s t) := by
  obtain ⟨-, hend | ⟨hlt, i, hi, hexec⟩⟩ := step_cases h
  · exact .inl hend
  · exact .inr ⟨hlt, i, decode_take s.config _ ▸ hi, exec_effect hexec⟩

/-- In SCANNING with a byte at the cursor, a step runs what that byte and the rest of the stream decode to. -/
theorem step_eq_exec {s : State} (h : s.Ready) :
    step s = exec (decodeOpcode s.config (s.stream.cell s.cursor) (s.stream.bytesFrom (s.cursor + 1))) s :=
  step_ready h (by rw [decode_take, bytesFrom_cons h.2, decode])

/-- A decoded instruction has at least one byte and ends inside the stream. -/
theorem encode_inside {s : State} {i : Instr} (h : decode s.config (s.stream.bytesFrom s.cursor) = .ok i) :
    0 < (encode i).length ∧ (encode i).length ≤ s.stream.length - s.cursor :=
  ⟨Nat.succ_pos _, bytesFrom_length s.stream s.cursor ▸ (encode_isPrefix_of_decode h).length_le⟩

/-- The next states of a state: the three ways a step can end (40_dispatch.md rules R81, R89; 60_exceptions.md rule R221). -/
inductive StepResult (s : State) : State → Prop where
  /-- No byte is left. -/
  | exhausted (hend : s.stream.length ≤ s.cursor) : StepResult s s.haltExhausted
  /-- At most one Line, at the cursor before, and the cursor moved on inside the stream. -/
  | movedOn (rs : List Record) (p : Nat) (hrs : rs = [] ∨ ∃ mn ops, rs = [.line s.cursor mn ops])
      (hlt : s.cursor < p) (hle : p ≤ s.stream.length) : StepResult s ((s.emitAll rs).finish p)
  /-- The stream ends inside a data movement. -/
  | truncated (kind : TruncKind) (hlt : s.cursor < s.stream.length) : StepResult s (s.raiseTruncated kind)

theorem stepResult_of_step {s t : State} (h : step s = .next t) : StepResult s t := by
  obtain ⟨hend, rfl⟩ | ⟨hlt, i, hi, heffect⟩ := step_effect h
  · exact .exhausted hend
  · obtain ⟨hpos, hle⟩ := encode_inside hi
    obtain ⟨-, rs, hrs, rfl⟩ | ⟨-, mn, rfl⟩ | ⟨-, kind, rfl⟩ := heffect
    · exact .movedOn rs _ hrs (by omega) (by omega)
    · exact .movedOn _ _ (.inr ⟨mn, none, rfl⟩) hlt le_rfl
    · exact .truncated kind hlt

/-! ### The records of a step -/

@[simp] theorem lineOffsets_append (xs ys : List Record) : lineOffsets (xs ++ ys) = lineOffsets xs ++ lineOffsets ys := by
  induction xs with
  | nil => rfl
  | cons r xs ih => cases r <;> simp [lineOffsets, ih]

/-- Settles O36, by the three ways a step can end. -/
theorem stepAppendsAtMostOneRecord : Obligations.StepAppendsAtMostOneRecord := by
  unfold Obligations.StepAppendsAtMostOneRecord
  intro s t h
  cases stepResult_of_step h with
  | exhausted => exact .inl rfl
  | movedOn rs p hrs =>
    obtain rfl | ⟨mn, ops, rfl⟩ := hrs
    · exact .inl (by simp)
    · exact .inr (.inr ⟨mn, ops, rfl⟩)
  | truncated => exact .inr (.inl rfl)

/-! ### The invariant -/

theorem State.Inv.cause_of_scanning {s : State} (h : s.Inv) (hf : s.fsm = .scanning) : s.cause = .none := by
  obtain ⟨-, hc⟩ | ⟨hhalt, -⟩ := h.halted_iff_cause
  · exact hc
  · simp [hf] at hhalt

theorem State.Inv.no_diagnostic_of_scanning {s : State} (h : s.Inv) (hf : s.fsm = .scanning) : .diagnostic ∉ s.out :=
  h.no_diagnostic (by rw [h.cause_of_scanning hf]; rfl)

/-- What a run starts from satisfies the invariant (10_state.md rule R35). -/
theorem inv_of_start {s : State} (hwf : s.stream.wf) (hcursor : s.cursor = 0) (hfsm : s.fsm = .scanning)
    (hcause : s.cause = .none) (hout : s.out = []) : s.Inv where
  stream_wf := hwf
  cursor_le := by omega
  halted_iff_cause := .inl ⟨hfsm, hcause⟩
  exhausted_at_end := by simp [hcause]
  truncated_inside := by simp [hcause, Cause.isTruncation]
  offsets_increase := by simp [hout, lineOffsets]
  offsets_before_cursor := by simp [hout, lineOffsets]
  diagnostic_last := by simp [hcause, Cause.isTruncation]
  no_diagnostic := by simp [hout]

/-- Settles O3: each is the start of a run. -/
theorem loadedResetStatesAreInvariant : Obligations.LoadedResetStatesAreInvariant :=
  ⟨inv_of_start empty_wf rfl rfl rfl rfl, fun bs => inv_of_start (ofBytes_wf bs) rfl rfl rfl rfl,
    fun _ hwf => inv_of_start hwf rfl rfl rfl rfl⟩

theorem State.Inv.haltExhausted {s : State} (h : s.Inv) (hf : s.fsm = .scanning) (hend : s.stream.length ≤ s.cursor) :
    s.haltExhausted.Inv where
  stream_wf := h.stream_wf
  cursor_le := h.cursor_le
  halted_iff_cause := .inr ⟨rfl, by simp⟩
  exhausted_at_end := fun _ => h.cursor_le.antisymm hend
  truncated_inside := by simp [Cause.isTruncation]
  offsets_increase := h.offsets_increase
  offsets_before_cursor := h.offsets_before_cursor
  diagnostic_last := by simp [Cause.isTruncation]
  no_diagnostic := fun _ => h.no_diagnostic_of_scanning hf

theorem truncCause_isTruncation (kind : TruncKind) : (truncCause kind).isTruncation = true := by cases kind <;> rfl

theorem State.Inv.raiseTruncated {s : State} (h : s.Inv) (hf : s.fsm = .scanning) (hlt : s.cursor < s.stream.length)
    (kind : TruncKind) : (s.raiseTruncated kind).Inv where
  stream_wf := h.stream_wf
  cursor_le := h.cursor_le
  halted_iff_cause := .inr ⟨rfl, by cases kind <;> simp [truncCause]⟩
  exhausted_at_end := by cases kind <;> simp [truncCause]
  truncated_inside := fun _ => hlt
  offsets_increase := by simpa [lineOffsets] using h.offsets_increase
  offsets_before_cursor := by simpa [lineOffsets] using h.offsets_before_cursor
  diagnostic_last := fun _ => ⟨s.out, rfl, h.no_diagnostic_of_scanning hf⟩
  no_diagnostic := by simp [truncCause_isTruncation]

/-- Moving the cursor on, with at most one Line at the old cursor, keeps the invariant: the new offset is past the earlier
ones and before the new cursor. -/
theorem State.Inv.movedOn {s : State} (h : s.Inv) (hf : s.fsm = .scanning) {rs : List Record} {p : Nat}
    (hrs : rs = [] ∨ ∃ mn ops, rs = [.line s.cursor mn ops]) (hlt : s.cursor < p) (hle : p ≤ s.stream.length) :
    ((s.emitAll rs).finish p).Inv where
  stream_wf := h.stream_wf
  cursor_le := hle
  halted_iff_cause := .inl ⟨hf, h.cause_of_scanning hf⟩
  exhausted_at_end := by simp [h.cause_of_scanning hf]
  truncated_inside := by simp [h.cause_of_scanning hf, Cause.isTruncation]
  offsets_increase := by
    obtain rfl | ⟨mn, ops, rfl⟩ := hrs
    · simpa using h.offsets_increase
    · simpa [lineOffsets, List.pairwise_append] using ⟨h.offsets_increase, h.offsets_before_cursor⟩
  offsets_before_cursor := by
    have hbefore : ∀ o ∈ lineOffsets s.out, o < p := fun o ho => (h.offsets_before_cursor o ho).trans hlt
    obtain rfl | ⟨mn, ops, rfl⟩ := hrs
    · simpa using hbefore
    · simpa [lineOffsets, or_imp, forall_and] using ⟨hbefore, hlt⟩
  diagnostic_last := by simp [h.cause_of_scanning hf, Cause.isTruncation]
  no_diagnostic := by
    have hno := h.no_diagnostic_of_scanning hf
    obtain rfl | ⟨mn, ops, rfl⟩ := hrs <;> simp [hno]

theorem step_keeps_inv {s t : State} (hinv : s.Inv) (h : step s = .next t) : t.Inv := by
  have hf := (step_cases h).1
  cases stepResult_of_step h with
  | exhausted hend => exact hinv.haltExhausted hf hend
  | movedOn rs p hrs hlt hle => exact hinv.movedOn hf hrs hlt hle
  | truncated kind hlt => exact hinv.raiseTruncated hf hlt kind

/-- Settles O2, by the three ways a step can end. -/
theorem invariantKeptByEveryStep : Obligations.InvariantKeptByEveryStep := fun _ _ => step_keeps_inv

/-! ### The frame -/

/-- Settles O39: none of the three ways a step can end writes the stream or the configuration. -/
theorem streamAndConfigurationAreNeverWritten : Obligations.StreamAndConfigurationAreNeverWritten := by
  unfold Obligations.StreamAndConfigurationAreNeverWritten
  intro s t h
  cases stepResult_of_step h with
  | exhausted | movedOn | truncated => exact ⟨rfl, rfl, fun _ => rfl⟩

/-- Settles O38: of what an instruction can do, only moving on past its bytes is open to a complete one. -/
theorem completeInstructionsTouchCursorAndOutputOnly : Obligations.CompleteInstructionsTouchCursorAndOutputOnly := by
  unfold Obligations.CompleteInstructionsTouchCursorAndOutputOnly
  intro i s t hc h
  obtain ⟨-, rs, hrs, rfl⟩ | ⟨hcut, -⟩ | ⟨hcut, -⟩ := exec_effect h
  · have hlen : rs.length ≤ 1 := by obtain rfl | ⟨mn, ops, rfl⟩ := hrs <;> simp
    exact ⟨rs, hlen, _, h, rfl, rfl, rfl, rfl, rfl, rfl, fun _ => rfl⟩
  · simp [hc] at hcut
  · simp [hc] at hcut

/-! ### The cursor -/

/-- Where a step leaves the cursor, from a cursor in 0..N (10_state.md rule R33). -/
theorem step_cursor_bounds {s t : State} (hle : s.cursor ≤ s.stream.length) (h : step s = .next t) :
    t.cursor ≤ t.stream.length ∧ s.cursor ≤ t.cursor ∧ (t.fsm ≠ .halted → s.cursor < t.cursor) := by
  cases stepResult_of_step h with
  | exhausted => exact ⟨hle, le_rfl, fun hne => absurd rfl hne⟩
  | movedOn rs p hrs hlt hp => exact ⟨hp, hlt.le, fun _ => hlt⟩
  | truncated => exact ⟨hle, le_rfl, fun hne => absurd rfl hne⟩

/-- Settles O37: the bounds by the three ways a step can end, the exact advance by what the decoded instruction can do. -/
theorem cursorOnlyMovesForward : Obligations.CursorOnlyMovesForward := by
  unfold Obligations.CursorOnlyMovesForward
  intro s t hle h
  obtain ⟨hin, hback, hon⟩ := step_cursor_bounds hle h
  refine ⟨hin, hback, hon, fun i hi => ?_⟩
  obtain ⟨hend, -⟩ | ⟨-, j, hj, heffect⟩ := step_effect h
  · rw [bytesFrom_eq_nil hend] at hi
    cases hi
  · obtain rfl : j = i := Except.ok.inj (hj.symm.trans hi)
    obtain ⟨hc, rs, -, rfl⟩ | ⟨hc, mn, rfl⟩ | ⟨hc, kind, rfl⟩ := heffect
    · exact ⟨fun _ => rfl, by simp [hc]⟩
    · exact ⟨by simp [hc], fun _ _ => rfl⟩
    · exact ⟨by simp [hc], fun _ hne => absurd rfl hne⟩

/-! ### The end of every run -/

theorem fixedStep_next {s : State} {op : Byte} {mn : String} (h : s.config.fixedTable.lookup op = some mn) :
    ∃ t, fixedStep op s = .next t := ⟨_, by rw [fixedStep, h]⟩

theorem jumpStep_next {s : State} {op : Byte} {mn : String} (f : JumpField)
    (h : s.config.fixedTable.lookup op = some mn) : ∃ t, jumpStep op f s = .next t := ⟨_, by rw [jumpStep, h]⟩

theorem moveStep_next (op : Byte) (o : MovOperands) (s : State) : ∃ t, moveStep op o s = .next t := by
  cases o with
  | modrm | imm | truncated => exact ⟨_, rfl⟩
  | modrmImm m imm => cases hr : isImmReg op <;> simp [moveStep, hr]

/-- What decodes under a state's configuration has a next state: a mnemonic is looked up only for a key of FIXED_TABLE. -/
theorem exec_decodeOpcode_next (s : State) (op : Byte) (rest : List Byte) :
    ∃ t, exec (decodeOpcode s.config op rest) s = .next t := by
  unfold decodeOpcode
  split
  case h_1 | h_5 => exact ⟨_, rfl⟩
  case h_2 mn w hclass =>
    rw [exec_jumpInstr]
    exact jumpStep_next _ (lookup_of_classify (.inr ⟨w, hclass⟩))
  case h_3 mn hclass =>
    rw [exec_fixedInstr]
    exact fixedStep_next (lookup_of_classify (.inl hclass))
  case h_4 =>
    rw [exec_movInstr]
    exact moveStep_next _ _ s

/-- SCANNING has a next state, whatever the cursor, the stream and the configuration. -/
theorem step_next_of_scanning {s : State} (hf : s.fsm = .scanning) : ∃ t, step s = .next t := by
  by_cases hlt : s.cursor < s.stream.length
  · rw [step_eq_exec ⟨hf, hlt⟩]
    exact exec_decodeOpcode_next s _ _
  · exact ⟨_, step_exhausted hf (by omega)⟩

/-- A step from SCANNING halts, or scans on from a later position. -/
theorem step_descends {s t : State} (h : step s = .next t) :
    t.stream = s.stream ∧ (t.fsm = .halted ∨ (t.fsm = .scanning ∧ s.cursor < t.cursor)) := by
  have hf := (step_cases h).1
  cases stepResult_of_step h with
  | exhausted | truncated => exact ⟨rfl, .inl rfl⟩
  | movedOn rs p hrs hlt => exact ⟨rfl, .inr ⟨hf, hlt⟩⟩

/-- A scanning run halts within N - cursor + 1 steps, by induction on the bytes left. -/
theorem run_halts {n : Nat} {s : State} (hinv : s.Inv) (hf : s.fsm = .scanning)
    (hn : s.stream.length - s.cursor = n) :
    ∃ k t, k ≤ n + 1 ∧ Host.Core.run core k s = .next t ∧ t.fsm = .halted ∧ t.Inv := by
  induction n using Nat.strong_induction_on generalizing s with
  | _ n ih =>
    obtain ⟨t, ht⟩ := step_next_of_scanning hf
    have htinv := step_keeps_inv hinv ht
    obtain ⟨hstream, hhalt | ⟨hscan, hlt⟩⟩ := step_descends ht
    · exact ⟨1, t, by omega, run_of_step ht 0, hhalt, htinv⟩
    · have hle := htinv.cursor_le
      rw [hstream] at hle
      obtain ⟨k, u, hk, hrun, hu⟩ := ih (s.stream.length - t.cursor) (by omega) htinv hscan (by rw [hstream])
      exact ⟨k + 1, u, by omega, (run_of_step ht k).trans hrun, hu⟩

/-- Settles O53: the step lemmas, and the run by induction on the bytes left. -/
theorem scanningStepsDescendToAHalt : Obligations.ScanningStepsDescendToAHalt := by
  unfold Obligations.ScanningStepsDescendToAHalt
  intro s hinv hf
  obtain ⟨t, ht⟩ := step_next_of_scanning hf
  exact ⟨⟨t, ht, step_keeps_inv hinv ht, step_descends ht⟩, run_halts hinv hf rfl⟩

/-! ### The latches -/

/-- The state with other latches and another draw counter. -/
def State.withLatches (s : State) (l : Latches) (d : Nat) : State := { s with latches := l, draws := d }

section
variable (s : State) (l : Latches) (d : Nat)

theorem fixedStep_withLatches (op : Byte) : SameOutcome (fixedStep op (s.withLatches l d)) (fixedStep op s) := by
  unfold fixedStep State.withLatches
  cases s.config.fixedTable.lookup op with
  | none => rfl
  | some mn => exact ⟨rfl, rfl, rfl⟩

theorem jumpStep_withLatches (op : Byte) (f : JumpField) :
    SameOutcome (jumpStep op f (s.withLatches l d)) (jumpStep op f s) := by
  unfold jumpStep State.withLatches
  cases s.config.fixedTable.lookup op with
  | none => rfl
  | some mn => exact ⟨rfl, rfl, rfl⟩

theorem moveStep_withLatches (op : Byte) (o : MovOperands) :
    SameOutcome (moveStep op o (s.withLatches l d)) (moveStep op o s) := by
  cases o with
  | modrmImm m imm => cases hr : isImmReg op <;> simp only [moveStep, hr] <;> exact ⟨rfl, rfl, rfl⟩
  | modrm | imm | truncated => exact ⟨rfl, rfl, rfl⟩

/-- No meaning reads a latch. -/
theorem exec_withLatches (i : Instr) : SameOutcome (exec i (s.withLatches l d)) (exec i s) := by
  cases i
  case sentinel | unrecognized => exact ⟨rfl, rfl, rfl⟩
  all_goals first
    | exact fixedStep_withLatches s l d _
    | exact jumpStep_withLatches s l d _ _
    | exact moveStep_withLatches s l d _ _

/-- No step reads a latch: the control state, the fetch and the decoding do not, and no meaning does. -/
theorem step_withLatches : SameOutcome (step (s.withLatches l d)) (step s) := by
  have hfsm : (s.withLatches l d).fsm = s.fsm := rfl
  cases hf : s.fsm with
  | halted | decodingOperand => simp [step, hfsm, hf, SameOutcome]
  | scanning =>
    by_cases hlt : s.cursor < s.stream.length
    · rw [step_eq_exec ⟨hf, hlt⟩, step_eq_exec (s := s.withLatches l d) ⟨hf, hlt⟩]
      exact exec_withLatches s l d _
    · rw [step_exhausted hf (by omega), step_exhausted (s := s.withLatches l d) hf (not_lt.1 hlt)]
      exact ⟨rfl, rfl, rfl⟩

end

/-- Settles O40. -/
theorem latchesCannotMatter : Obligations.LatchesCannotMatter := step_withLatches

/-! ### The register and RM tables -/

theorem regName_eq_of_getElem? {k : Nat} {name : String} (cfg : Configuration) (h : registerTable[k]? = some name) :
    regName cfg k = name := by
  rw [regName, regOperand, h]
  rfl

theorem regName_eq_unresolved {k : Nat} (cfg : Configuration) (h : 8 ≤ k) : regName cfg k = cfg.unresolved := by
  rw [regName, regOperand, List.getElem?_eq_none h]
  rfl

/-- Settles O31. -/
theorem registerTableWithFallback : Obligations.RegisterTableWithFallback :=
  fun cfg => ⟨rfl, fun _ => regName_eq_unresolved cfg⟩

theorem rmBase_eq_of_getElem? {k : Nat} {base : String} (cfg : Configuration) (h : rmTable[k]? = some base) :
    rmBase cfg k = base := by
  rw [rmBase, h]
  rfl

theorem disp8Text_of_lt {d : BitVec 8} (h : d.toNat < 128) : disp8Text d = "+" ++ hex2 d.toNat := by
  have hs : sext8 d = d.toNat := if_pos h
  simp [disp8Text, hs]

theorem disp8Text_of_ge {d : BitVec 8} (h : 128 ≤ d.toNat) : disp8Text d = "-" ++ hex2 (256 - d.toNat) := by
  have hd := d.isLt
  have hs : sext8 d = d.toNat - 256 := if_neg (by omega)
  have hmag : (-sext8 d).toNat = 256 - d.toNat := by omega
  rw [disp8Text, if_neg (by omega), hmag]

/-- Settles O30: each form by its table entry, the signed displacement by its two ranges. -/
theorem rmOperandTexts : Obligations.RmOperandTexts := by
  unfold Obligations.RmOperandTexts
  intro cfg rm d h reg base hreg hbase
  have hbase := rmBase_eq_of_getElem? cfg hbase
  refine ⟨regName_eq_of_getElem? cfg hreg, rfl, ?indirect, fun hd => ?nonneg, fun hd => ?neg, ?disp16⟩ <;>
    simp only [rmText, rmOperand, Operand.print, hbase]
  case nonneg => rw [disp8Text_of_lt hd]
  case neg => rw [disp8Text_of_ge hd]

/-! ### The status port -/

/-- No control state has code 3 (10_state.md rule R32). -/
theorem fsmCode_ne_three (f : Fsm) : f.code ≠ 3 := by cases f <;> decide

/-- Settles O49. -/
theorem statusFieldsShowStateByCode : Obligations.StatusFieldsShowStateByCode :=
  ⟨rfl, rfl, fun s => ⟨rfl, fsmCode_ne_three s.fsm⟩⟩

end Sys2Proof.Machine
end

section
/-! The decoder undoes the encoder: from the encoding of a well-formed instruction it reads that instruction back, and the
bytes after it matter only where the encoding is cut off (30_encoding.md rules R56 to R63). -/

namespace Sys2Proof

/-! ### The operands are read back -/

/-- A complete offset field is read back whatever follows, a short one at the end of the stream. -/
theorem parseJump_encoding {f : JumpField} {rest : List Byte} (hwf : f.wellFormed = true)
    (hend : f.complete = true ∨ rest = []) : parseJump f.width (f.encoding ++ rest) = f := by
  have hlong (hc : f.complete = true) : ¬ (f.encoding ++ rest).length < f.width.bytes := by
    rw [List.length_append, jumpField_encoding_length hc]
    omega
  cases f with
  | rel8 b =>
    rw [parseJump.eq_def, if_neg (hlong rfl)]
    simp [JumpField.width, JumpField.encoding, leNat]
  | rel16 h =>
    have hback : leNat (leBytes 2 h.toNat) = h.toNat := (leNat_leBytes ..).trans (Nat.mod_eq_of_lt h.isLt)
    rw [parseJump.eq_def, if_neg (hlong rfl)]
    simp [JumpField.width, JumpField.encoding, hback]
  | far64 q =>
    have hback : leNat (leBytes 8 q.toNat) = q.toNat := (leNat_leBytes ..).trans (Nat.mod_eq_of_lt q.isLt)
    rw [parseJump.eq_def, if_neg (hlong rfl)]
    simp [JumpField.width, JumpField.encoding, hback]
  | short w present =>
    obtain rfl : rest = [] := by simpa [JumpField.complete] using hend
    have hshort : present.length < w.bytes := by simpa [JumpField.wellFormed] using hwf
    simpa [JumpField.width, JumpField.encoding] using parseJump_short hshort

/-- A format begins with a ModRM byte unless it is the immediate-to-register one under SKIP. -/
theorem readsModRm_iff {mode : ImmregModrm} {op : Byte} :
    readsModRm mode op = true ↔ ¬(isImmReg op = true ∧ mode = .skip) := by
  simp [readsModRm, imp_iff_not_or]

section
variable {mode : ImmregModrm} {op : Byte}

/-- Under SKIP an immediate-to-register opcode is followed by its immediate at once. -/
theorem parseMov_of_not_readsModRm (h : readsModRm mode op = false) (imm : Byte) (rest : List Byte) :
    parseMov mode op (imm :: rest) = .imm imm := by
  have hskip : isImmReg op = true ∧ mode = .skip := by simpa [readsModRm] using h
  simp only [parseMov, if_pos hskip]

variable (h : readsModRm mode op = true)
include h

/-- A ModRM byte whose displacement the stream ends inside. -/
theorem parseMov_truncatedDisp {m : Byte} {more : List Byte} (hshort : more.length < dispSize m) :
    parseMov mode op (m :: more) = .truncated .disp (m :: more) := by
  simp only [parseMov, if_neg (readsModRm_iff.1 h), if_pos hshort]

/-- A ModRM operand that ends where the immediate should begin. -/
theorem parseMov_truncatedImm {m : Byte} {more : List Byte} (himm : isImmReg op = true ∨ isImmMem op = true)
    (hlen : more.length = dispSize m) : parseMov mode op (m :: more) = .truncated .imm (m :: more) := by
  simp [parseMov, if_neg (readsModRm_iff.1 h), himm, ← hlen]

/-- A well-formed ModRM operand of an opcode without an immediate. -/
theorem parseMov_modrm {m : ModRm} (hm : m.rm.wellFormed = true) (himm : ¬(isImmReg op = true ∨ isImmMem op = true))
    (rest : List Byte) : parseMov mode op (m.bytes ++ rest) = .modrm m := by
  obtain ⟨b, ds, hbytes, hlen, rfl⟩ := parseModRm_of_bytes m hm
  simp [parseMov, if_neg (readsModRm_iff.1 h), if_neg himm, hbytes, ← hlen]

/-- A well-formed ModRM operand and the immediate byte after it. -/
theorem parseMov_modrmImm {m : ModRm} (hm : m.rm.wellFormed = true) (himm : isImmReg op = true ∨ isImmMem op = true)
    (imm : Byte) (rest : List Byte) : parseMov mode op (m.bytes ++ imm :: rest) = .modrmImm m imm := by
  obtain ⟨b, ds, hbytes, hlen, rfl⟩ := parseModRm_of_bytes m hm
  simp [parseMov, if_neg (readsModRm_iff.1 h), himm, hbytes, ← hlen]

end

/-- Complete operands of a data movement are read back whatever follows, truncated ones at the end of the stream. -/
theorem parseMov_encoding {mode : ImmregModrm} {op : Byte} {o : MovOperands} {rest : List Byte}
    (hwf : o.wellFormed mode op = true) (hend : o.complete = true ∨ rest = []) :
    parseMov mode op (o.encoding ++ rest) = o := by
  cases o with
  | modrm m =>
    simp only [MovOperands.wellFormed, Bool.and_eq_true, Bool.not_eq_true'] at hwf
    obtain ⟨⟨⟨hreads, hreg⟩, hmem⟩, hm⟩ := hwf
    exact parseMov_modrm hreads hm (by simp [hreg, hmem]) rest
  | modrmImm m imm =>
    simp only [MovOperands.wellFormed, Bool.and_eq_true, Bool.or_eq_true] at hwf
    obtain ⟨⟨hreads, himm⟩, hm⟩ := hwf
    simpa [MovOperands.encoding] using parseMov_modrmImm hreads hm himm imm rest
  | imm imm => exact parseMov_of_not_readsModRm (by simpa [MovOperands.wellFormed] using hwf) imm rest
  | truncated kind present =>
    obtain rfl : rest = [] := by simpa [MovOperands.complete] using hend
    rw [MovOperands.encoding, List.append_nil]
    cases kind with
    | modrm =>
      simp only [MovOperands.wellFormed, Bool.and_eq_true, List.isEmpty_iff] at hwf
      obtain ⟨hreads, rfl⟩ := hwf
      simp only [parseMov, if_neg (readsModRm_iff.1 hreads)]
    | disp =>
      cases present with
      | nil => simp [MovOperands.wellFormed] at hwf
      | cons m more =>
        simp only [MovOperands.wellFormed, Bool.and_eq_true, decide_eq_true_eq] at hwf
        exact parseMov_truncatedDisp hwf.1 hwf.2
    | imm =>
      cases present with
      | nil =>
        have hskip : isImmReg op = true ∧ mode = .skip := by simpa [MovOperands.wellFormed, readsModRm] using hwf
        simp only [parseMov, if_pos hskip]
      | cons m more =>
        simp only [MovOperands.wellFormed, Bool.and_eq_true, Bool.or_eq_true, decide_eq_true_eq] at hwf
        obtain ⟨⟨hreads, himm⟩, hlen⟩ := hwf
        exact parseMov_truncatedImm hreads himm hlen

/-! ### The classes of well-formed instructions -/

/-- A well-formed instruction as the decoder makes it: the instruction of an opcode of one of the five classes, with
well-formed operands (40_dispatch.md rule R82). -/
inductive Instr.OfClass (cfg : Configuration) : Instr → Prop where
  | sentinel : OfClass cfg (.sentinel cfg.sentinel)
  | fixed {op : Byte} (hop : isFixedOpcode cfg op = true) : OfClass cfg (fixedInstr op)
  | jump {op : Byte} {f : JumpField} (h : jumpWellFormed cfg op f = true) : OfClass cfg (jumpInstr op f)
  | mov {op : Byte} {o : MovOperands} (h : movWellFormed cfg op o = true) : OfClass cfg (movInstr op o)
  | unrecognized {op : Byte} (hop : isUnrecognizedOpcode cfg op = true) : OfClass cfg (.unrecognized op)

/-- An opcode without a row of its own has the generic instruction. -/
theorem fixedInstr_of_no_row {op : Byte} (h : op ∉ fixedOpcodes) : fixedInstr op = .fixedOp op := by
  rw [fixedInstr, lookup_eq_none (show op ∉ fixedRows.map (·.1) from h)]
  rfl

theorem jumpInstr_of_no_row {op : Byte} (h : op ∉ jumpOpcodes) (f : JumpField) : jumpInstr op f = .jumpOp op f := by
  rw [jumpInstr, lookup_eq_none (show op ∉ jumpRows.map (·.1) from h)]
  rfl

theorem movInstr_of_no_row {op : Byte} (h : op ∉ movOpcodes) (o : MovOperands) : movInstr op o = .movOp op o := by
  rw [movInstr, lookup_eq_none (show op ∉ movRows.map (·.1) from h)]
  rfl

/-- Every well-formed instruction is one that the decoder makes: its opcode's row, or the generic one of an opcode without
a row. -/
theorem ofClass_of_wellFormed {cfg : Configuration} {i : Instr} (h : i.wellFormed cfg = true) : i.OfClass cfg := by
  have hfixed (hi : fixedInstr i.opcode = i) (hop : isFixedOpcode cfg i.opcode = true) : i.OfClass cfg :=
    hi ▸ .fixed hop
  have hjump (f : JumpField) (hi : jumpInstr i.opcode f = i) (hf : jumpWellFormed cfg i.opcode f = true) :
      i.OfClass cfg := hi ▸ .jump hf
  have hmov (o : MovOperands) (hi : movInstr i.opcode o = i) (ho : movWellFormed cfg i.opcode o = true) :
      i.OfClass cfg := hi ▸ .mov ho
  have hgeneric {b : Bool} {rows : List Byte} {op : Byte} (hb : (b && !rows.contains op) = true) :
      b = true ∧ op ∉ rows := by simpa using hb
  cases i
  case sentinel op =>
    obtain rfl : op = cfg.sentinel := by simpa [Instr.wellFormed] using h
    exact .sentinel
  case unrecognized op => exact .unrecognized h
  case fixedOp op =>
    obtain ⟨hop, hrow⟩ := hgeneric h
    exact hfixed (fixedInstr_of_no_row hrow) hop
  case jumpOp op f =>
    obtain ⟨hf, hrow⟩ := hgeneric h
    exact hjump f (jumpInstr_of_no_row hrow f) hf
  case movOp op o =>
    obtain ⟨ho, hrow⟩ := hgeneric h
    exact hmov o (movInstr_of_no_row hrow o) ho
  case pushf | popf | sahf | lahf | movsb | movsw | cmpsb | cmpsw | stosb | stosw | lodsb | lodsw | scasb | scasw | int3
      | into | iret | lock | repne | rep | hlt | cmc | clc | stc | cli | sti | cld | std =>
    exact hfixed rfl h
  case jo f | jno f | jb f | jae f | je f | jne f | jbe f | ja f | js f | jns f | jp f | jnp f | jl f | jge f | jle f
      | jg f | jmpShort f | jmp f | jmpFar f =>
    exact hjump f rfl h
  case mov88 o | mov89 o | mov8A o | mov8B o | movC6 o | movC7 o | movB0 o | movB1 o | movB2 o | movB3 o | movB4 o
      | movB5 o | movB6 o | movB7 o | movB8 o | movB9 o | movBA o | movBB o | movBC o | movBD o | movBE o | movBF o =>
    exact hmov o rfl h

/-! ### Completeness of the rows -/

@[simp] theorem complete_jumpInstr (op : Byte) (f : JumpField) : (jumpInstr op f).complete = f.complete := by
  have rows : ∀ row ∈ jumpRows, (row.2 f).complete = f.complete := by simp [jumpRows, Instr.complete]
  unfold jumpInstr
  cases hl : jumpRows.lookup op with
  | none => rfl
  | some mk => exact rows _ (mem_of_lookup hl)

@[simp] theorem complete_movInstr (op : Byte) (o : MovOperands) : (movInstr op o).complete = o.complete := by
  have rows : ∀ row ∈ movRows, (row.2 o).complete = o.complete := by simp [movRows, Instr.complete]
  unfold movInstr
  cases hl : movRows.lookup op with
  | none => rfl
  | some mk => exact rows _ (mem_of_lookup hl)

/-! ### The round trip -/

theorem classify_sentinel (cfg : Configuration) : classify cfg cfg.sentinel = .sentinel := if_pos rfl

/-- The encoding of a well-formed instruction decodes to it, whatever follows a complete one and at the end of the stream
for one that is cut off: the opcode gives the class, and the class's parser reads the operands back. -/
theorem decode_encode_append {cfg : Configuration} {i : Instr} {rest : List Byte} (hwf : i.wellFormed cfg = true)
    (hend : i.complete = true ∨ rest = []) : decode cfg (encode i ++ rest) = .ok i := by
  cases ofClass_of_wellFormed hwf with
  | sentinel => simp [encode, Instr.opcode, Instr.operandBytes, decode, decodeOpcode, classify_sentinel]
  | fixed hop =>
    obtain ⟨mn, -, hclass⟩ := classify_fixed hop
    simp [decode, decodeOpcode, hclass]
  | jump h =>
    simp only [jumpWellFormed, Bool.and_eq_true] at h
    obtain ⟨hop, hf⟩ := h
    obtain ⟨mn, -, hclass⟩ := classify_jump hop
    rw [complete_jumpInstr] at hend
    simp [decode, decodeOpcode, hclass, parseJump_encoding hf hend]
  | mov h =>
    simp only [movWellFormed, Bool.and_eq_true] at h
    obtain ⟨hop, ho⟩ := h
    rw [complete_movInstr] at hend
    simp [decode, decodeOpcode, classify_mov hop, parseMov_encoding ho hend]
  | unrecognized hop =>
    simp [encode, Instr.opcode, Instr.operandBytes, decode, decodeOpcode, classify_unrecognized hop]

/-- Settles O5: complete, the instruction is read back whatever follows. -/
theorem decodeReadsBackEveryCompleteEncoding : Obligations.DecodeReadsBackEveryCompleteEncoding :=
  fun _ _ _ hwf hcomplete => decode_encode_append hwf (.inl hcomplete)

end Sys2Proof
end

section
/-! The stream's read port and length (20_memory.md rules R40 to R42), and the step that never reads outside it. -/

namespace Sys2Proof.Machine

theorem byteAt_isSome_iff {m : Memory} {a : Nat} : (m.byteAt a).isSome = true ↔ a < m.length := by
  simp [Memory.byteAt]

theorem hasRemaining_iff {m : Memory} {p n : Nat} : m.hasRemaining p n = true ↔ p + n ≤ m.length :=
  decide_eq_true_iff

/-- A loaded stream reads back its bytes, and nothing beyond them (70_reset_and_hazards.md rule R242). -/
theorem byteAt_ofBytes (bs : List Byte) (a : Nat) : (Memory.ofBytes bs).byteAt a = bs[a]? := by
  have hlen := ofBytes_length bs
  by_cases hlt : a < bs.length
  · have hcell : (Memory.ofBytes bs).cell a = bs.getD a blankByte :=
      (storeBytes_cell empty_wf 0 a bs).trans (by simp [hlt])
    rw [byteAt_eq_some (by omega), hcell]
    simp [hlt]
  · rw [byteAt_eq_none (by omega), List.getElem?_eq_none (by omega)]

/-- Settles O52. -/
theorem streamReadsAndLength : Obligations.StreamReadsAndLength :=
  ⟨fun _ _ => byteAt_isSome_iff, fun _ _ _ => hasRemaining_iff, fun bs => ⟨ofBytes_length bs, byteAt_ofBytes bs⟩⟩

/-- Settles O41: with a byte at the cursor what decodes there has a next state, with none left the step halts. -/
theorem scanningAlwaysHasANextState : Obligations.ScanningAlwaysHasANextState := fun _ => step_next_of_scanning

end Sys2Proof.Machine
end

section
/-! The decoder gives well-formed instructions only, and how long they are: what the parsers read, the exact bytes of a
cut-off form, and the length function (30_encoding.md rules R56 to R59). -/

namespace Sys2Proof

open Sys2Proof.Machine

/-- Settles O6: at the end of the stream nothing follows, so a cut-off form is read back too. -/
theorem decodeReadsBackEncodingsAtStreamEnd : Obligations.DecodeReadsBackEncodingsAtStreamEnd := by
  unfold Obligations.DecodeReadsBackEncodingsAtStreamEnd
  intro cfg i hwf
  simpa using decode_encode_append hwf (.inr rfl)

/-! ### What the operand parsers give -/

theorem parseJump_width (w : JumpWidth) (rest : List Byte) : (parseJump w rest).width = w := by
  by_cases h : rest.length < w.bytes
  · rw [parseJump_short h]
    rfl
  · exact (parseJump_complete (not_lt.1 h)).2.1

theorem parseJump_wellFormed (w : JumpWidth) (rest : List Byte) : (parseJump w rest).wellFormed = true := by
  by_cases h : rest.length < w.bytes
  · rw [parseJump_short h]
    exact decide_eq_true h
  · obtain ⟨hcomplete, -, -⟩ := parseJump_complete (not_lt.1 h)
    cases hf : parseJump w rest with
    | short => simp [hf, JumpField.complete] at hcomplete
    | rel8 | rel16 | far64 => rfl

/-- A short field is all that is left (43_jump.md rule R182). -/
theorem parseJump_encoding_of_cut_off {w : JumpWidth} {rest : List Byte} (hcut : (parseJump w rest).complete = false) :
    (parseJump w rest).encoding = rest := by
  by_cases h : rest.length < w.bytes
  · rw [parseJump_short h]
    rfl
  · simp [(parseJump_complete (not_lt.1 h)).1] at hcut

/-- The operands that a data-movement opcode reads from the bytes after it, form by form (30_encoding.md rule R56;
42_data_movement.md rules R147, R148, R174). -/
inductive MovOperands.ReadFrom (mode : ImmregModrm) (op : Byte) : List Byte → MovOperands → Prop where
  | noImm (hskip : readsModRm mode op = false) : ReadFrom mode op [] (.truncated .imm [])
  | imm (hskip : readsModRm mode op = false) {imm : Byte} {rest : List Byte} : ReadFrom mode op (imm :: rest) (.imm imm)
  | noModRm (hreads : readsModRm mode op = true) : ReadFrom mode op [] (.truncated .modrm [])
  | shortDisp (hreads : readsModRm mode op = true) {m : Byte} {more : List Byte} (hshort : more.length < dispSize m) :
      ReadFrom mode op (m :: more) (.truncated .disp (m :: more))
  | modrm (hreads : readsModRm mode op = true) (himm : ¬(isImmReg op = true ∨ isImmMem op = true)) {m : Byte}
      {disp rest : List Byte} (hdisp : disp.length = dispSize m) :
      ReadFrom mode op (m :: disp ++ rest) (.modrm (parseModRm m disp))
  | modrmNoImm (hreads : readsModRm mode op = true) (himm : isImmReg op = true ∨ isImmMem op = true) {m : Byte}
      {disp : List Byte} (hdisp : disp.length = dispSize m) :
      ReadFrom mode op (m :: disp) (.truncated .imm (m :: disp))
  | modrmImm (hreads : readsModRm mode op = true) (himm : isImmReg op = true ∨ isImmMem op = true) {m imm : Byte}
      {disp rest : List Byte} (hdisp : disp.length = dispSize m) :
      ReadFrom mode op (m :: disp ++ imm :: rest) (.modrmImm (parseModRm m disp) imm)

/-- The parser gives the form that its bytes have. -/
theorem parseMov_readFrom (mode : ImmregModrm) (op : Byte) (rest : List Byte) :
    (parseMov mode op rest).ReadFrom mode op rest := by
  cases hreads : readsModRm mode op with
  | false =>
    have hskip : isImmReg op = true ∧ mode = .skip := by simpa [readsModRm] using hreads
    cases rest with
    | nil =>
      simp only [parseMov, if_pos hskip]
      exact .noImm hreads
    | cons imm rest =>
      rw [parseMov_of_not_readsModRm hreads]
      exact .imm hreads
  | true =>
    cases rest with
    | nil =>
      simp only [parseMov, if_neg (readsModRm_iff.1 hreads)]
      exact .noModRm hreads
    | cons m more =>
      by_cases hshort : more.length < dispSize m
      · rw [parseMov_truncatedDisp hreads hshort]
        exact .shortDisp hreads hshort
      · obtain ⟨disp, rest, rfl, hdisp⟩ : ∃ disp rest, more = disp ++ rest ∧ disp.length = dispSize m :=
          ⟨_, _, (List.take_append_drop (dispSize m) more).symm, List.length_take_of_le (not_lt.1 hshort)⟩
        obtain ⟨hbytes, hm⟩ := bytes_of_parseModRm m disp hdisp
        rw [← List.cons_append]
        by_cases himm : isImmReg op = true ∨ isImmMem op = true
        · cases rest with
          | nil =>
            rw [List.append_nil, parseMov_truncatedImm hreads himm hdisp]
            exact .modrmNoImm hreads himm hdisp
          | cons imm rest =>
            rw [← hbytes, parseMov_modrmImm hreads hm himm, hbytes]
            exact .modrmImm hreads himm hdisp
        · rw [← hbytes, parseMov_modrm hreads hm himm, hbytes]
          exact .modrm hreads himm hdisp

theorem MovOperands.ReadFrom.wellFormed {mode : ImmregModrm} {op : Byte} {rest : List Byte} {o : MovOperands}
    (h : o.ReadFrom mode op rest) : o.wellFormed mode op = true := by
  cases h with
  | noImm hskip | imm hskip => simp [MovOperands.wellFormed, hskip]
  | noModRm hreads => simp [MovOperands.wellFormed, hreads]
  | shortDisp hreads hshort => simp [MovOperands.wellFormed, hreads, hshort]
  | modrm hreads himm hdisp => simpa [MovOperands.wellFormed, hreads, (bytes_of_parseModRm _ _ hdisp).2] using himm
  | modrmNoImm hreads himm hdisp => simpa [MovOperands.wellFormed, hreads, hdisp] using himm
  | modrmImm hreads himm hdisp => simpa [MovOperands.wellFormed, hreads, (bytes_of_parseModRm _ _ hdisp).2] using himm

/-- Operands that the stream ends inside hold all that is left (42_data_movement.md rule R174). -/
theorem MovOperands.ReadFrom.encoding_of_cut_off {mode : ImmregModrm} {op : Byte} {rest : List Byte} {o : MovOperands}
    (h : o.ReadFrom mode op rest) (hcut : o.complete = false) : o.encoding = rest := by
  cases h with
  | noImm | noModRm | shortDisp | modrmNoImm => rfl
  | imm | modrm | modrmImm => simp [MovOperands.complete] at hcut

/-! ### The rows are well formed where their opcodes are of the class -/

theorem not_mem_keys_of_lookup {β : Type} {l : List (Byte × β)} {a : Byte} (h : l.lookup a = none) :
    a ∉ l.map (·.1) := by
  intro hmem
  obtain ⟨row, hrow, rfl⟩ := List.mem_map.1 hmem
  simpa using List.lookup_eq_none_iff.1 h row hrow

theorem wellFormed_fixedInstr (cfg : Configuration) (op : Byte) :
    (fixedInstr op).wellFormed cfg = isFixedOpcode cfg op := by
  have rows : ∀ row ∈ fixedRows, row.2.wellFormed cfg = isFixedOpcode cfg row.1 := by
    simp [fixedRows, Instr.wellFormed]
  cases hl : fixedRows.lookup op with
  | none =>
    have hrow : op ∉ fixedOpcodes := not_mem_keys_of_lookup (l := fixedRows) hl
    simp [fixedInstr_of_no_row hrow, Instr.wellFormed, hrow]
  | some i => simpa [fixedInstr, hl] using rows _ (mem_of_lookup hl)

theorem wellFormed_jumpInstr (cfg : Configuration) (op : Byte) (f : JumpField) :
    (jumpInstr op f).wellFormed cfg = jumpWellFormed cfg op f := by
  have rows : ∀ row ∈ jumpRows, (row.2 f).wellFormed cfg = jumpWellFormed cfg row.1 f := by
    simp [jumpRows, Instr.wellFormed]
  cases hl : jumpRows.lookup op with
  | none =>
    have hrow : op ∉ jumpOpcodes := not_mem_keys_of_lookup (l := jumpRows) hl
    simp [jumpInstr_of_no_row hrow, Instr.wellFormed, hrow]
  | some mk => simpa [jumpInstr, hl] using rows _ (mem_of_lookup hl)

theorem wellFormed_movInstr (cfg : Configuration) (op : Byte) (o : MovOperands) :
    (movInstr op o).wellFormed cfg = movWellFormed cfg op o := by
  have rows : ∀ row ∈ movRows, (row.2 o).wellFormed cfg = movWellFormed cfg row.1 o := by
    simp [movRows, Instr.wellFormed]
  cases hl : movRows.lookup op with
  | none =>
    have hrow : op ∉ movOpcodes := not_mem_keys_of_lookup (l := movRows) hl
    simp [movInstr_of_no_row hrow, Instr.wellFormed, hrow]
  | some mk => simpa [movInstr, hl] using rows _ (mem_of_lookup hl)

/-- The instructions that the decoder makes are well formed: the converse of `ofClass_of_wellFormed`. -/
theorem Instr.OfClass.wellFormed {cfg : Configuration} {i : Instr} (h : i.OfClass cfg) : i.wellFormed cfg = true := by
  cases h with
  | sentinel => simp [Instr.wellFormed]
  | fixed hop => rw [wellFormed_fixedInstr, hop]
  | jump h => rw [wellFormed_jumpInstr, h]
  | mov h => rw [wellFormed_movInstr, h]
  | unrecognized hop => exact hop

/-! ### What the decoder gives -/

/-- The decoder classifies the opcode by the checks of WellFormed, and reads the operands of its format
(40_dispatch.md rules R81, R82). -/
theorem decodeOpcode_ofClass (cfg : Configuration) (op : Byte) (rest : List Byte) :
    (decodeOpcode cfg op rest).OfClass cfg := by
  by_cases hs : op = cfg.sentinel
  · subst hs
    simpa only [decodeOpcode, classify_sentinel] using .sentinel
  · cases hf : cfg.fixedTable.lookup op with
    | none =>
      by_cases hm : op ∈ cfg.movSet
      · have hop : isMovOpcode cfg op = true := by simp [isMovOpcode, hs, hf, hm]
        have ho : movWellFormed cfg op (parseMov cfg.immregModrm op rest) = true := by
          simp [movWellFormed, hop, (parseMov_readFrom cfg.immregModrm op rest).wellFormed]
        simpa only [decodeOpcode, classify_mov hop] using .mov ho
      · have hop : isUnrecognizedOpcode cfg op = true := by simp [isUnrecognizedOpcode, hs, hf, hm]
        simpa only [decodeOpcode, classify_unrecognized hop] using .unrecognized hop
    | some mn =>
      cases hw : cfg.jumpWidth.lookup op with
      | none =>
        have hop : isFixedOpcode cfg op = true := by simp [isFixedOpcode, hs, hf, hw]
        obtain ⟨_, -, hclass⟩ := classify_fixed hop
        simpa only [decodeOpcode, hclass] using .fixed hop
      | some w =>
        have hop : isJumpOpcode cfg op w = true := by simp [isJumpOpcode, hs, hf, hw]
        have hf : jumpWellFormed cfg op (parseJump w rest) = true := by
          simp [jumpWellFormed, parseJump_width, hop, parseJump_wellFormed]
        obtain ⟨_, -, hclass⟩ := classify_jump hop
        simpa only [decodeOpcode, hclass] using .jump hf

@[simp] theorem complete_fixedInstr (op : Byte) : (fixedInstr op).complete = true := by
  have rows : ∀ row ∈ fixedRows, row.2.complete = true := by decide
  unfold fixedInstr
  cases hl : fixedRows.lookup op with
  | none => rfl
  | some i => exact rows _ (mem_of_lookup hl)

/-- An instruction that the stream ends inside is all that is left. -/
theorem encode_decodeOpcode_of_cut_off {cfg : Configuration} {op : Byte} {rest : List Byte}
    (hcut : (decodeOpcode cfg op rest).complete = false) : encode (decodeOpcode cfg op rest) = op :: rest := by
  unfold decodeOpcode at hcut ⊢
  cases hclass : classify cfg op with simp only [hclass] at hcut ⊢
  | sentinel | unrecognized => simp [Instr.complete] at hcut
  | fixed => simp at hcut
  | jump mn w =>
    rw [complete_jumpInstr] at hcut
    rw [encode_jumpInstr, parseJump_encoding_of_cut_off hcut]
  | dataMovement =>
    rw [complete_movInstr] at hcut
    rw [encode_movInstr, (parseMov_readFrom _ op rest).encoding_of_cut_off hcut]

/-- Settles O7: well formed by the class of the opcode and what its parser gives, and the bytes it was read from. -/
theorem decodedInstructionsAreWellFormedPrefixes : Obligations.DecodedInstructionsAreWellFormedPrefixes := by
  unfold Obligations.DecodedInstructionsAreWellFormedPrefixes
  intro cfg bs i h
  have hprefix := encode_isPrefix_of_decode h
  cases bs with
  | nil => cases h
  | cons op rest =>
    cases h
    exact ⟨(decodeOpcode_ofClass cfg op rest).wellFormed, hprefix, encode_decodeOpcode_of_cut_off⟩

/-! ### The length function (30_encoding.md rule R59) -/

section
variable {cfg : Configuration} {op : Byte} (hclass : classify cfg op = .dataMovement)
include hclass

/-- Under SKIP an immediate-to-register opcode has its immediate and nothing else. -/
theorem lengthFromOpcode_of_not_readsModRm (h : readsModRm cfg.immregModrm op = false) (modrm : Byte) :
    lengthFromOpcode cfg op modrm = 2 := by
  have hskip : isImmReg op = true ∧ cfg.immregModrm = .skip := by simpa [readsModRm] using h
  simp only [lengthFromOpcode, hclass, if_pos hskip]

theorem lengthFromOpcode_of_readsModRm (h : readsModRm cfg.immregModrm op = true) (modrm : Byte) :
    lengthFromOpcode cfg op modrm =
      2 + dispSize modrm + (if isImmReg op = true ∨ isImmMem op = true then 1 else 0) := by
  simp only [lengthFromOpcode, hclass, if_neg (readsModRm_iff.1 h)]

/-- Where the length that the opcode and the ModRM byte tell is there, the operands are complete and have it. -/
theorem MovOperands.ReadFrom.length_of_fits {rest : List Byte} {o : MovOperands} {modrm : Byte}
    (h : o.ReadFrom cfg.immregModrm op rest) (hmodrm : ∀ b ∈ rest.head?, b = modrm)
    (hfits : lengthFromOpcode cfg op modrm ≤ rest.length + 1) :
    o.complete = true ∧ o.encoding.length + 1 = lengthFromOpcode cfg op modrm := by
  cases h with
  | noImm hskip =>
    rw [lengthFromOpcode_of_not_readsModRm hclass hskip, List.length_nil] at hfits
    omega
  | imm hskip => exact ⟨rfl, (lengthFromOpcode_of_not_readsModRm hclass hskip modrm).symm⟩
  | noModRm hreads =>
    rw [lengthFromOpcode_of_readsModRm hclass hreads, List.length_nil] at hfits
    omega
  | shortDisp hreads hshort =>
    obtain rfl := hmodrm _ rfl
    rw [lengthFromOpcode_of_readsModRm hclass hreads, List.length_cons] at hfits
    omega
  | modrm hreads himm hdisp =>
    obtain rfl := hmodrm _ rfl
    rw [lengthFromOpcode_of_readsModRm hclass hreads, if_neg himm, MovOperands.encoding,
      (bytes_of_parseModRm _ _ hdisp).1, List.length_cons]
    exact ⟨rfl, by omega⟩
  | modrmNoImm hreads himm hdisp =>
    obtain rfl := hmodrm _ rfl
    rw [lengthFromOpcode_of_readsModRm hclass hreads, if_pos himm, List.length_cons] at hfits
    omega
  | modrmImm hreads himm hdisp =>
    obtain rfl := hmodrm _ rfl
    rw [lengthFromOpcode_of_readsModRm hclass hreads, if_pos himm, MovOperands.encoding,
      (bytes_of_parseModRm _ _ hdisp).1, List.length_append, List.length_cons]
    exact ⟨rfl, by rw [List.length_singleton]; omega⟩

end

/-- Where the length of R59 is there, the instruction is complete and has that length. -/
theorem decodeOpcode_length_of_fits {cfg : Configuration} {op modrm : Byte} {rest : List Byte}
    (hmodrm : ∀ b ∈ rest.head?, b = modrm) (hfits : lengthFromOpcode cfg op modrm ≤ rest.length + 1) :
    (decodeOpcode cfg op rest).complete = true ∧
      (encode (decodeOpcode cfg op rest)).length = lengthFromOpcode cfg op modrm := by
  cases hclass : classify cfg op with
  | sentinel | unrecognized => simp only [decodeOpcode, lengthFromOpcode, hclass]; exact ⟨rfl, rfl⟩
  | fixed mn => simp [decodeOpcode, lengthFromOpcode, hclass]
  | jump mn w =>
    have hlen : lengthFromOpcode cfg op modrm = 1 + w.bytes := by simp only [lengthFromOpcode, hclass]
    have hw : w.bytes ≤ rest.length := by omega
    obtain ⟨hcomplete, -, henc⟩ := parseJump_complete hw
    simp [decodeOpcode, hclass, hcomplete, henc, hlen, hw, Nat.add_comm]
  | dataMovement =>
    obtain ⟨hcomplete, hlen⟩ := (parseMov_readFrom _ op rest).length_of_fits hclass hmodrm hfits
    simp [decodeOpcode, hclass, hcomplete, hlen]

theorem lengthFromOpcode_pos (cfg : Configuration) (op modrm : Byte) : 0 < lengthFromOpcode cfg op modrm := by
  unfold lengthFromOpcode
  cases classify cfg op with
  | sentinel | fixed | unrecognized => exact Nat.one_pos
  | jump mn w => exact Nat.add_pos_left Nat.one_pos _
  | dataMovement => dsimp only; split <;> omega

/-- The byte after the cursor is the first of the rest, if there is a rest. -/
theorem head?_bytesFrom {m : Memory} {p : Nat} {b : Byte} (h : b ∈ (m.bytesFrom p).head?) : b = m.cell p := by
  by_cases hp : p < m.length
  · rw [bytesFrom_cons hp] at h
    exact (Option.some.inj h).symm
  · simp [bytesFrom_eq_nil (not_lt.1 hp)] at h

/-- Settles O10: the decoded instruction is complete and of that length, and all it can do is move on past its bytes. -/
theorem lengthIsToldByOpcodeAndModRm : Obligations.LengthIsToldByOpcodeAndModRm := by
  unfold Obligations.LengthIsToldByOpcodeAndModRm
  intro s hf hfits
  have hpos := lengthFromOpcode_pos s.config (s.stream.cell s.cursor) (s.stream.cell (s.cursor + 1))
  have hready : s.Ready := ⟨hf, by omega⟩
  obtain ⟨hcomplete, hlen⟩ := decodeOpcode_length_of_fits (cfg := s.config) (op := s.stream.cell s.cursor)
    (rest := s.stream.bytesFrom (s.cursor + 1)) (fun _ => head?_bytesFrom)
    (by rw [bytesFrom_length]; omega)
  obtain ⟨t, ht⟩ := step_next_of_scanning hf
  obtain ⟨-, rs, -, rfl⟩ | ⟨hcut, -⟩ | ⟨hcut, -⟩ := exec_effect ((step_eq_exec hready).symm.trans ht)
  · exact ⟨_, ht, hf, by rw [finish_cursor, hlen]⟩
  · simp [hcomplete] at hcut
  · simp [hcomplete] at hcut

/-! ### The ModRM byte by arithmetic (30_encoding.md rules R57, R58) -/

theorem modField_toNat (m : Byte) : (modField m).toNat = m.toNat / 64 := by
  have hm : m.toNat / 64 < 4 := Nat.div_lt_of_lt_mul m.isLt
  simpa [modField, BitVec.extractLsb'_toNat, Nat.shiftRight_eq_div_pow] using hm

theorem regField_toNat (m : Byte) : (regField m).toNat = m.toNat / 8 % 8 := by
  simp [regField, BitVec.extractLsb'_toNat, Nat.shiftRight_eq_div_pow]

theorem rmField_toNat (m : Byte) : (rmField m).toNat = m.toNat % 8 := by
  simp [rmField, BitVec.extractLsb'_toNat]

theorem modField_eq_iff {m : Byte} {x : BitVec 2} : modField m = x ↔ m.toNat / 64 = x.toNat := by
  rw [← BitVec.toNat_inj, modField_toNat]

theorem rmField_eq_iff {m : Byte} {x : BitVec 3} : rmField m = x ↔ m.toNat % 8 = x.toNat := by
  rw [← BitVec.toNat_inj, rmField_toNat]

/-- Settles O11: by the four values of MOD, and under MOD = 00 whether RM is 110; a displacement fits its field. -/
theorem modRmFieldsAndDisplacement : Obligations.ModRmFieldsAndDisplacement := by
  unfold Obligations.ModRmFieldsAndDisplacement
  intro m disp hdisp
  refine ⟨by simp [dispSize, modField_eq_iff, rmField_eq_iff], regField_toNat m, ?_⟩
  have hrm := rmField_toNat m
  have hlt := leNat_lt disp
  have hmods : ∀ x : BitVec 2, x = 0#2 ∨ x = 1#2 ∨ x = 2#2 ∨ x = 3#2 := by decide
  rcases hmods (modField m) with h | h | h | h <;> have hmod := modField_eq_iff.1 h
  · by_cases h6 : rmField m = 6#3
    · have hsize : disp.length = 2 := by simpa [dispSize, h, h6] using hdisp
      rw [hsize] at hlt
      have hrm6 := rmField_eq_iff.1 h6
      simpa [parseModRm, h, h6, hmod, hrm6] using hlt
    · have hrm6 := mt rmField_eq_iff.2 h6
      simpa [parseModRm, h, h6, hmod, hrm] using hrm6
  · obtain ⟨d, rfl⟩ : ∃ d, disp = [d] := List.length_eq_one_iff.1 (by simpa [dispSize, h] using hdisp)
    simp [parseModRm, h, hmod, hrm, leNat]
  · have hsize : disp.length = 2 := by simpa [dispSize, h] using hdisp
    rw [hsize] at hlt
    simpa [parseModRm, h, hmod, hrm] using hlt
  · simpa [parseModRm, h, hrm] using hmod

end Sys2Proof
end

section
/-! Sample encodings of the ten formats (30_encoding.md rule R56). -/

namespace Sys2Proof

/-- Settles O9, by evaluating the decoder on each word. -/
theorem sampleWordsDecodeAsEncoded : Obligations.SampleWordsDecodeAsEncoded := by
  unfold Obligations.SampleWordsDecodeAsEncoded
  decide

end Sys2Proof
end

section
/-! Dispatch (40_dispatch.md rules R81 to R93): the class of the byte at the cursor, the shared step that each class runs,
and what the shared steps print. -/

namespace Sys2Proof.Machine

open Sys2Proof.Claims

/-! ### Classification, by table membership (40_dispatch.md rules R82, R88) -/

section
variable {cfg : Configuration} {op : Byte} (hs : op ≠ cfg.sentinel)
include hs

theorem classify_of_jumpWidth {mn : String} {w : JumpWidth} (hf : cfg.fixedTable.lookup op = some mn)
    (hw : cfg.jumpWidth.lookup op = some w) : classify cfg op = .jump mn w := by
  simp only [classify, if_neg hs, hf, hw]

theorem classify_of_fixedTable {mn : String} (hf : cfg.fixedTable.lookup op = some mn)
    (hw : cfg.jumpWidth.lookup op = none) : classify cfg op = .fixed mn := by
  simp only [classify, if_neg hs, hf, hw]

theorem classify_of_movSet (hf : cfg.fixedTable.lookup op = none) (hm : op ∈ cfg.movSet) :
    classify cfg op = .dataMovement := by
  simp only [classify, if_neg hs, hf, if_pos hm]

theorem classify_of_no_table (hf : cfg.fixedTable.lookup op = none) (hm : op ∉ cfg.movSet) :
    classify cfg op = .unrecognized := by
  simp only [classify, if_neg hs, hf, if_neg hm]

end

/-- Settles O45: one lemma per class. -/
theorem classificationOrder : Obligations.ClassificationOrder := by
  unfold Obligations.ClassificationOrder
  intro cfg op
  refine ⟨fun hs => hs ▸ classify_sentinel cfg, fun hs => ⟨?jump, ?fixed, ?mov, ?unrecognized⟩⟩
  case jump => exact fun _ _ => classify_of_jumpWidth hs
  case fixed => exact fun _ => classify_of_fixedTable hs
  case mov => exact classify_of_movSet hs
  case unrecognized => exact classify_of_no_table hs

/-! ### The shared step of each class (40_dispatch.md rule R81) -/

/-- Settles O8: the nine bytes that a step fetches decode as the whole rest of the stream does. -/
theorem stepRunsTheDecodedInstruction : Obligations.StepRunsTheDecodedInstruction := by
  unfold Obligations.StepRunsTheDecodedInstruction
  intro s i hready hi
  exact step_ready hready ((decode_take ..).trans hi)

section
variable {s : State} (hready : s.Ready)
include hready

theorem step_of_sentinel (h : classify s.config (s.stream.cell s.cursor) = .sentinel) : step s = skipStep s := by
  rw [step_eq_exec hready, decodeOpcode, h]
  rfl

theorem step_of_unrecognized (h : classify s.config (s.stream.cell s.cursor) = .unrecognized) :
    step s = skipStep s := by
  rw [step_eq_exec hready, decodeOpcode, h]
  rfl

theorem step_of_fixed {mn : String} (h : classify s.config (s.stream.cell s.cursor) = .fixed mn) :
    step s = fixedStep (s.stream.cell s.cursor) s := by
  rw [step_eq_exec hready, decodeOpcode, h]
  exact exec_fixedInstr _ s

theorem step_of_jump {mn : String} {w : JumpWidth} (h : classify s.config (s.stream.cell s.cursor) = .jump mn w) :
    step s = jumpStep (s.stream.cell s.cursor) (parseJump w (s.stream.bytesFrom (s.cursor + 1))) s := by
  rw [step_eq_exec hready, decodeOpcode, h]
  exact exec_jumpInstr _ _ s

theorem step_of_dataMovement (h : classify s.config (s.stream.cell s.cursor) = .dataMovement) :
    step s = moveStep (s.stream.cell s.cursor)
      (parseMov s.config.immregModrm (s.stream.cell s.cursor) (s.stream.bytesFrom (s.cursor + 1))) s := by
  rw [step_eq_exec hready, decodeOpcode, h]
  exact exec_movInstr _ _ s

end

/-! ### What the shared steps print, and their frame -/

theorem prints_finish (s : State) (rs : List Record) (p : Nat) : Prints (.next ((s.emitAll rs).finish p)) s p rs :=
  ⟨_, rfl, rfl, rfl, rfl, rfl, rfl, rfl, fun _ => rfl⟩

theorem prints_skipStep (s : State) : Prints (skipStep s) s (s.cursor + 1) [] := by
  simpa only [skipStep, emitAll_nil] using prints_finish s [] (s.cursor + 1)

theorem prints_fixedStep {s : State} {op : Byte} {mn : String} (h : s.config.fixedTable.lookup op = some mn) :
    Prints (fixedStep op s) s (s.cursor + 1) [.line s.cursor mn none] := by
  rw [fixedStep, h]
  exact prints_finish s _ _

/-- One operand that is not the marker is enough for the Line (42_data_movement.md rules R148, R149). -/
theorem prints_printMov (s : State) {op1 : Operand} (h : op1 ≠ .unresolved) (op2 : Operand) (n : Nat) :
    Prints (.next (printMov op1 op2 n s)) s (s.cursor + 1 + n)
      (movLine s (op1.print s.config) (op2.print s.config)) := by
  rw [printMov, movRecords_of_resolved h]
  exact prints_finish s _ _

theorem truncates_raiseTruncated (s : State) (kind : TruncKind) :
    Truncates (.next (s.raiseTruncated kind)) s (causeOf kind) :=
  ⟨_, rfl, rfl, by cases kind <;> rfl, rfl, rfl, rfl, rfl, fun _ => rfl⟩

/-! ### Silent skips (40_dispatch.md rules R83, R86) -/

theorem byteAt_eq_some_iff {m : Memory} {a : Nat} {b : Byte} : m.byteAt a = some b ↔ a < m.length ∧ m.cell a = b := by
  simp [Memory.byteAt]

/-- A run of sentinels, by induction on its length. -/
theorem prints_run_sentinels {n : Nat} {s : State} (hf : s.fsm = .scanning)
    (hbytes : ∀ k, k < n → s.stream.byteAt (s.cursor + k) = some s.config.sentinel) :
    Prints (Host.Core.run core n s) s (s.cursor + n) [] := by
  induction n generalizing s with
  | zero => exact ⟨s, rfl, rfl, (List.append_nil _).symm, rfl, rfl, rfl, rfl, fun _ => rfl⟩
  | succ n ih =>
    obtain ⟨hlt, hcell⟩ := byteAt_eq_some_iff.1 (hbytes 0 n.succ_pos)
    have hskip : step s = .next (s.finish (s.cursor + 1)) :=
      step_of_sentinel ⟨hf, hlt⟩ (hcell ▸ classify_sentinel s.config)
    have hrest (k : Nat) (hk : k < n) : s.stream.byteAt (s.cursor + 1 + k) = some s.config.sentinel := by
      rw [Nat.add_assoc, Nat.add_comm 1 k]
      exact hbytes (k + 1) (Nat.succ_lt_succ hk)
    have hrun : Prints (Host.Core.run core n (s.finish (s.cursor + 1))) s (s.cursor + 1 + n) [] :=
      ih (s := s.finish (s.cursor + 1)) hf hrest
    rw [run_of_step hskip, ← Nat.add_assoc, Nat.add_right_comm]
    exact hrun

/-- Settles O12: the skip by the shared step, the run by induction. -/
theorem sentinelRunsAreSkippedSilently : Obligations.SentinelRunsAreSkippedSilently :=
  ⟨fun s _ => prints_skipStep s, fun _ _ => prints_run_sentinels⟩

/-- Settles O13: such a byte is unrecognized, whose step is the silent skip. -/
theorem unrecognizedBytesAreSkippedSilently : Obligations.UnrecognizedBytesAreSkippedSilently := by
  unfold Obligations.UnrecognizedBytesAreSkippedSilently
  refine ⟨fun s _ => prints_skipStep s, fun s op hready hbyte hs hf hm => ?_⟩
  obtain ⟨-, rfl⟩ := byteAt_eq_some_iff.1 hbyte
  rw [step_of_unrecognized hready (classify_of_no_table hs hf hm)]
  exact prints_skipStep s

/-! ### Fixed-operand and added data-movement opcodes (40_dispatch.md rules R84, R87) -/

/-- Settles O17: such a byte is a fixed opcode, whose step prints its mnemonic alone. -/
theorem everyFixedOpcodePrintsUnmodified : Obligations.EveryFixedOpcodePrintsUnmodified := by
  unfold Obligations.EveryFixedOpcodePrintsUnmodified
  refine ⟨fun s op mn hready hbyte hs hf hw => ?_, fun s op mn => prints_fixedStep⟩
  obtain ⟨-, rfl⟩ := byteAt_eq_some_iff.1 hbyte
  rw [step_of_fixed hready (classify_of_fixedTable hs hf hw)]
  exact prints_fixedStep hf

theorem decode_of_movOpcode {cfg : Configuration} {op : Byte} (h : isMovOpcode cfg op = true) (rest : List Byte) :
    decode cfg (op :: rest) = .ok (movInstr op (parseMov cfg.immregModrm op rest)) := by
  rw [decode, decodeOpcode, classify_mov h]

/-- An opcode that takes no immediate follows the rule of the register/memory moves (42_data_movement.md rule R148). -/
theorem movRmRule_movInstr {op : Byte} (hop : ¬(isImmReg op = true ∨ isImmMem op = true)) :
    MovRmRule op (movInstr op) := by
  have hreads (mode : ImmregModrm) : readsModRm mode op = true := readsModRm_iff.2 fun h => hop (.inl h.1)
  refine ⟨fun cfg hmov => ⟨fun m rest hm => ?_, ?_, fun m more hshort => ?_⟩, fun s => ⟨fun m => ?_, fun kind _ => ?_⟩⟩
  · rw [decode_of_movOpcode hmov, parseMov_modrm (hreads _) hm hop]
  · rw [decode_of_movOpcode hmov, parseMov, if_neg (readsModRm_iff.1 (hreads _))]
  · rw [decode_of_movOpcode hmov, parseMov_truncatedDisp (hreads _) hshort]
  · rw [exec_movInstr, show s.cursor + 2 + rmDispSize m.rm = s.cursor + 1 + (1 + rmDispSize m.rm) by omega]
    exact prints_printMov s (regOperand_resolved m.reg) _ _
  · rw [exec_movInstr]
    exact truncates_raiseTruncated s kind

/-- The opcodes that take an immediate are rows of the table (42_data_movement.md rules R147, R154, R155). -/
theorem mem_movOpcodes_of_imm : ∀ op : Byte, isImmReg op = true ∨ isImmMem op = true → op ∈ movOpcodes := by decide

/-- Settles O29: an opcode without a row takes no immediate. -/
theorem addedMoveOpcodesTakeTheModRmPath : Obligations.AddedMoveOpcodesTakeTheModRmPath := by
  unfold Obligations.AddedMoveOpcodesTakeTheModRmPath
  intro op hrow
  have hmk : movInstr op = .movOp op := funext (movInstr_of_no_row hrow)
  exact hmk ▸ movRmRule_movInstr (mt (mem_movOpcodes_of_imm op) hrow)

/-! ### Well-formed instructions run (40_dispatch.md rule R81; 41_fixed_operand.md rule R128) -/

/-- Settles O42, by the class of the instruction: one that prints a mnemonic has an opcode that is a key of FIXED_TABLE. -/
theorem wellFormedInstructionsComplete : Obligations.WellFormedInstructionsComplete := by
  unfold Obligations.WellFormedInstructionsComplete
  intro i s hwf
  cases ofClass_of_wellFormed hwf with
  | sentinel | unrecognized => exact ⟨_, rfl⟩
  | fixed hop =>
    obtain ⟨mn, hf, -⟩ := classify_fixed hop
    rw [exec_fixedInstr]
    exact fixedStep_next hf
  | jump h =>
    simp only [jumpWellFormed, Bool.and_eq_true] at h
    obtain ⟨mn, hf, -⟩ := classify_jump h.1
    rw [exec_jumpInstr]
    exact jumpStep_next _ hf
  | mov =>
    rw [exec_movInstr]
    exact moveStep_next _ _ s

/-! ### The text of a record (40_dispatch.md rules R91 to R93) -/

/-- Settles O51: the text of each form, written out. -/
theorem recordTexts : Obligations.RecordTexts := fun _ _ _ _ _ => ⟨rfl, rfl, rfl, rfl⟩

end Sys2Proof.Machine
end

section
/-! The step agrees with the pseudocode of the spec, transcribed position by position in `Reference`: the offset field of a
jump (43_jump.md rule R181), the operands of a data movement (42_data_movement.md rule R148), then the class of the byte at
the cursor (40_dispatch.md rules R81, R82). -/

namespace Sys2Proof.Machine

/-! ### What an outcome shows -/

/-- The outcome is a next state that shows `v`, with the stream and the configuration as they were. -/
def Shows (o : Host.Outcome State Fault Refusal) (s : State) (v : Visible) : Prop :=
  ∃ t, o = .next t ∧ t.visible = v ∧ t.stream = s.stream ∧ t.config = s.config

theorem shows_finish (s : State) (rs : List Record) (p : Nat) :
    Shows (.next ((s.emitAll rs).finish p)) s (Reference.goOn s p rs) := ⟨_, rfl, rfl, rfl, rfl⟩

theorem shows_raiseTruncated (s : State) (kind : TruncKind) :
    Shows (.next (s.raiseTruncated kind)) s (Reference.raise s (truncCause kind)) := ⟨_, rfl, rfl, rfl, rfl⟩

theorem shows_skipStep (s : State) : Shows (skipStep s) s (Reference.goOn s (s.cursor + 1) []) := by
  simpa only [skipStep, emitAll_nil] using shows_finish s [] (s.cursor + 1)

theorem shows_fixedStep {s : State} {op : Byte} {mn : String} (h : s.config.fixedTable.lookup op = some mn) :
    Shows (fixedStep op s) s (Reference.goOn s (s.cursor + 1) [.line s.cursor mn none]) := by
  rw [fixedStep, h]
  exact shows_finish s _ _

theorem shows_printMov (s : State) (op1 op2 : Operand) {n p : Nat} (hp : s.cursor + 1 + n = p) :
    Shows (.next (printMov op1 op2 n s)) s (Reference.moveEnd s op1 op2 p) := by
  subst hp
  simpa only [printMov, movRecords, Reference.moveEnd, ite_not] using shows_finish s _ _

/-! ### Little-endian fields of the stream (20_memory.md rule R44) -/

theorem bytesFrom_eq_cons {m : Memory} {p : Nat} {b : Byte} {bs : List Byte} (h : m.bytesFrom p = b :: bs) :
    p < m.length ∧ m.cell p = b ∧ m.bytesFrom (p + 1) = bs := by
  have hp : p < m.length := by
    by_contra hge
    simp [bytesFrom_eq_nil (not_lt.1 hge)] at h
  rw [bytesFrom_cons hp] at h
  exact ⟨hp, List.cons.inj h⟩

theorem bytesFrom_eq_append {m : Memory} {p : Nat} {bs rest : List Byte} (h : m.bytesFrom p = bs ++ rest) :
    m.bytesFrom (p + bs.length) = rest := by
  induction bs generalizing p with
  | nil => exact h
  | cons b bs ih =>
    rw [List.length_cons, Nat.add_comm bs.length, ← Nat.add_assoc]
    exact ih (bytesFrom_eq_cons h).2.2

/-- The low byte first, the rest of the field 256 times it. -/
theorem Reference.le_succ (m : Memory) (p w : Nat) :
    Reference.le m p (w + 1) = (m.cell p).toNat + 256 * Reference.le m (p + 1) w := by
  have hterm (k : Nat) :
      (m.cell (p + (k + 1))).toNat * 256 ^ (k + 1) = 256 * ((m.cell (p + 1 + k)).toNat * 256 ^ k) := by
    rw [Nat.add_right_comm p 1 k, Nat.add_assoc p k 1, Nat.pow_succ]
    ring
  simp [Reference.le, List.range_succ_eq_map, Function.comp_def, hterm, List.sum_map_mul_left]

/-- The number read position by position is the number of the bytes that stand there. -/
theorem Reference.le_eq_leNat {m : Memory} {p : Nat} {bs rest : List Byte} (h : m.bytesFrom p = bs ++ rest) :
    Reference.le m p bs.length = leNat bs := by
  induction bs generalizing p with
  | nil => rfl
  | cons b bs ih =>
    obtain ⟨-, hcell, htail⟩ := bytesFrom_eq_cons h
    rw [List.length_cons, Reference.le_succ, ih htail, hcell, leNat]

theorem leNat_take_bytesFrom {m : Memory} {p w : Nat} (h : p + w ≤ m.length) :
    leNat ((m.bytesFrom p).take w) = Reference.le m p w := by
  rw [← Reference.le_eq_leNat (List.take_append_drop w _).symm, List.length_take_of_le (by rw [bytesFrom_length]; omega)]

/-! ### Jumps (43_jump.md rules R181, R182) -/

theorem sext8_eq_offset (b : BitVec 8) : sext8 b = Reference.offset 1 b.toNat := rfl

theorem sext16_eq_offset (h : BitVec 16) : sext16 h = Reference.offset 2 h.toNat := rfl

/-- The offset of a complete field is what its bytes stand for (30_encoding.md rule R62). -/
theorem jumpOffset_eq_offset {f : JumpField} (h : f.complete = true) :
    jumpOffset f = Reference.offset f.width.bytes (leNat f.encoding) := by
  cases f with
  | rel8 b => exact sext8_eq_offset b
  | rel16 b =>
    rw [JumpField.encoding, leNat_leBytes, Nat.mod_eq_of_lt (show b.toNat < 256 ^ 2 from b.isLt)]
    exact sext16_eq_offset b
  | far64 q =>
    rw [JumpField.encoding, leNat_leBytes, Nat.mod_eq_of_lt (show q.toNat < 256 ^ 8 from q.isLt)]
    rfl
  | short => simp [JumpField.complete] at h

theorem jumpTarget_complete (i : Nat) {f : JumpField} (h : f.complete = true) :
    jumpTarget i f = i + 1 + f.width.bytes + Reference.offset f.width.bytes (leNat f.encoding) := by
  rw [← jumpOffset_eq_offset h]
  cases f with
  | rel8 | rel16 | far64 => rfl
  | short => simp [JumpField.complete] at h

theorem shows_jumpStep {s : State} {op : Byte} {mn : String} (hlt : s.cursor < s.stream.length)
    (h : s.config.fixedTable.lookup op = some mn) (w : JumpWidth) :
    Shows (jumpStep op (parseJump w (s.stream.bytesFrom (s.cursor + 1))) s) s (Reference.jumpStep s mn w.bytes) := by
  have hrest := bytesFrom_length s.stream (s.cursor + 1)
  rw [jumpStep, h]
  by_cases hfits : s.cursor + 1 + w.bytes ≤ s.stream.length
  · obtain ⟨hcomplete, hwidth, henc⟩ := parseJump_complete (w := w) (rest := s.stream.bytesFrom (s.cursor + 1)) (by omega)
    rw [Reference.jumpStep, if_neg (not_not.2 hfits), add_right_comm (s.cursor : Int), jumpNext_complete _ _ hcomplete,
      jumpTarget_complete _ hcomplete, hwidth, henc, leNat_take_bytesFrom hfits]
    exact shows_finish s _ _
  · rw [Reference.jumpStep, if_pos hfits, parseJump_short (by omega)]
    exact shows_finish s _ _

/-! ### Data movements (42_data_movement.md rules R142 to R148, R174) -/

theorem isImmReg_iff {op : Byte} : isImmReg op = true ↔ 0xB0 ≤ op.toNat ∧ op.toNat ≤ 0xBF := by simp [isImmReg]

theorem isImmMem_iff {op : Byte} : isImmMem op = true ↔ op.toNat = 0xC6 ∨ op.toNat = 0xC7 := by
  simp [isImmMem, ← BitVec.toNat_inj]

/-- The ModRM operand takes as many displacement bytes as its ModRM byte asks for (30_encoding.md rule R58). -/
theorem rmDispSize_parseModRm {m : Byte} {disp : List Byte} (h : disp.length = dispSize m) :
    rmDispSize (parseModRm m disp).rm = dispSize m := by
  have hlen := congrArg List.length (bytes_of_parseModRm m disp h).1
  rw [modRm_bytes_length, List.length_cons, h] at hlen
  omega

/-- A one-byte displacement read from the stream. -/
theorem ofNat_leNat_take_one {m : Memory} {p : Nat} (h : p + 1 ≤ m.length) :
    BitVec.ofNat 8 (leNat ((m.bytesFrom p).take 1)) = m.cell p := by
  simp [bytesFrom_cons h, leNat]

/-- A two-byte displacement read from the stream. -/
theorem toNat_ofNat_leNat_take_two {m : Memory} {p : Nat} (h : p + 2 ≤ m.length) :
    (BitVec.ofNat 16 (leNat ((m.bytesFrom p).take 2))).toNat = Reference.le m p 2 := by
  have hlt := leNat_lt ((m.bytesFrom p).take 2)
  rw [List.length_take_of_le (by rw [bytesFrom_length]; omega)] at hlt
  rw [BitVec.toNat_ofNat, ← leNat_take_bytesFrom h]
  exact Nat.mod_eq_of_lt hlt

/-- The pseudocode under SKIP: an immediate alone (42_data_movement.md rule R147). -/
theorem Reference.moveStep_of_skip {s : State} {op : Byte} (hskip : readsModRm s.config.immregModrm op = false) :
    Reference.moveStep s op.toNat =
      if s.cursor + 1 + 1 ≤ s.stream.length then
        Reference.moveEnd s (regOperand (rmField op).toNat) (immOperand (s.stream.cell (s.cursor + 1))) (s.cursor + 1 + 1)
      else Reference.raise s .truncImm := by
  have himm : isImmReg op = true ∧ s.config.immregModrm = .skip := by simpa [readsModRm] using hskip
  rw [isImmReg_iff] at himm
  simp only [Reference.moveStep, if_pos himm, ite_not, rmField_toNat, immOperand]

section
variable {s : State} {op : Byte} (hreads : readsModRm s.config.immregModrm op = true)
include hreads

/-- The pseudocode's test for SKIP, where a ModRM byte is read. -/
theorem not_skip_of_readsModRm : ¬((0xB0 ≤ op.toNat ∧ op.toNat ≤ 0xBF) ∧ s.config.immregModrm = .skip) := by
  rw [← isImmReg_iff]
  exact readsModRm_iff.1 hreads

theorem Reference.moveStep_of_missing_modrm (hend : s.stream.length ≤ s.cursor + 1) :
    Reference.moveStep s op.toNat = Reference.raise s .truncModrm := by
  have hmissing : ¬s.cursor + 1 + 1 ≤ s.stream.length := by omega
  simp only [Reference.moveStep, if_neg (not_skip_of_readsModRm hreads), if_pos hmissing]

/-- The pseudocode where the ModRM byte is there: truncated unless its displacement is there too, and then on from the RM
operand. -/
theorem Reference.moveStep_of_modrm {m : Byte} (hlt : s.cursor + 1 + 1 ≤ s.stream.length)
    (hm : s.stream.cell (s.cursor + 1) = m) :
    Reference.moveStep s op.toNat =
      if s.cursor + 1 + 1 + dispSize m ≤ s.stream.length then
        Reference.moveRest s op.toNat (regField m).toNat
          (rmOperand s.config (parseModRm m ((s.stream.bytesFrom (s.cursor + 1 + 1)).take (dispSize m))).rm)
          (s.cursor + 1 + 1 + dispSize m)
      else Reference.raise s .truncDisp := by
  have hno := not_skip_of_readsModRm hreads
  have hmods : ∀ x : BitVec 2, x = 0#2 ∨ x = 1#2 ∨ x = 2#2 ∨ x = 3#2 := by decide
  simp only [Reference.moveStep, if_neg hno, ite_not, if_pos hlt, hm, regField_toNat]
  rcases hmods (modField m) with h | h | h | h
  · have hmod : m.toNat / 64 = 0 := modField_eq_iff.1 h
    by_cases h6 : rmField m = 6#3
    · have hrm : m.toNat % 8 = 6 := rmField_eq_iff.1 h6
      simp only [hmod, OfNat.zero_ne_ofNat, ↓reduceIte, hrm, and_self, dispSize, h, h6, parseModRm, BitVec.reduceEq]
      refine ite_congr rfl (fun hfits => ?_) fun _ => rfl
      rw [rmOperand, toNat_ofNat_leNat_take_two hfits]
    · have hrm : ¬m.toNat % 8 = 6 := fun hrm => h6 (rmField_eq_iff.2 hrm)
      simp only [hmod, OfNat.zero_ne_ofNat, ↓reduceIte, hrm, and_false, dispSize, h, h6, parseModRm, BitVec.reduceEq]
      rw [rmOperand, rmField_toNat]
      exact (if_pos hlt).symm
  · have hmod : m.toNat / 64 = 1 := modField_eq_iff.1 h
    simp only [hmod, OfNat.one_ne_ofNat, ↓reduceIte, one_ne_zero, false_and, dispSize, h, parseModRm, BitVec.reduceEq]
    refine ite_congr rfl (fun hfits => ?_) fun _ => rfl
    rw [ofNat_leNat_take_one hfits, rmOperand, rmField_toNat]
    rfl
  · have hmod : m.toNat / 64 = 2 := modField_eq_iff.1 h
    simp only [hmod, Nat.reduceEqDiff, ↓reduceIte, OfNat.ofNat_ne_zero, false_and, OfNat.ofNat_ne_one, dispSize, h,
      parseModRm, BitVec.reduceEq]
    refine ite_congr rfl (fun hfits => ?_) fun _ => rfl
    rw [rmOperand, toNat_ofNat_leNat_take_two hfits, rmField_toNat]
  · have hmod : m.toNat / 64 = 3 := modField_eq_iff.1 h
    simp only [hmod, ↓reduceIte, dispSize, h, parseModRm, BitVec.reduceEq]
    rw [rmOperand, rmField_toNat]
    exact (if_pos hlt).symm

end

/-! The pseudocode from the RM operand on: no immediate, a missing one, or the byte there. -/

section
variable {s : State} {op : Byte} (reg : Nat) (op2 : Operand) {p : Nat}

theorem Reference.moveRest_of_no_imm (himm : ¬(isImmReg op = true ∨ isImmMem op = true)) :
    Reference.moveRest s op.toNat reg op2 p = Reference.moveEnd s (regOperand reg) op2 p := by
  rw [isImmReg_iff, isImmMem_iff, not_or] at himm
  rw [Reference.moveRest, if_neg himm.1, if_neg himm.2]

theorem Reference.moveRest_of_missing_imm (himm : isImmReg op = true ∨ isImmMem op = true) (hp : s.stream.length ≤ p) :
    Reference.moveRest s op.toNat reg op2 p = Reference.raise s .truncImm := by
  rw [isImmReg_iff, isImmMem_iff] at himm
  have hmissing : ¬p + 1 ≤ s.stream.length := by omega
  by_cases hreg : 0xB0 ≤ op.toNat ∧ op.toNat ≤ 0xBF
  · rw [Reference.moveRest, if_pos hreg, if_pos hmissing]
  · rw [Reference.moveRest, if_neg hreg, if_pos (himm.resolve_left hreg), if_pos hmissing]

theorem Reference.moveRest_of_immReg (hreg : isImmReg op = true) (hp : p + 1 ≤ s.stream.length) :
    Reference.moveRest s op.toNat reg op2 p =
      Reference.moveEnd s (regOperand (rmField op).toNat) (immOperand (s.stream.cell p)) (p + 1) := by
  rw [Reference.moveRest, if_pos (isImmReg_iff.1 hreg), if_neg (not_not.2 hp), rmField_toNat]
  rfl

theorem Reference.moveRest_of_immMem (hreg : ¬isImmReg op = true) (hmem : isImmMem op = true)
    (hp : p + 1 ≤ s.stream.length) :
    Reference.moveRest s op.toNat reg op2 p =
      Reference.moveEnd s (regOperand reg) (op2.appendImm s.config (s.stream.cell p)) (p + 1) := by
  rw [Reference.moveRest, if_neg (mt isImmReg_iff.2 hreg), if_pos (isImmMem_iff.1 hmem), if_neg (not_not.2 hp)]
  rfl

end

/-- Where the displacement is there, the pseudocode goes on from the RM operand, with what follows it. -/
theorem Reference.moveStep_of_disp {s : State} {op m : Byte} {disp rest : List Byte}
    (hreads : readsModRm s.config.immregModrm op = true)
    (hstream : s.stream.bytesFrom (s.cursor + 1) = m :: (disp ++ rest)) (hdisp : disp.length = dispSize m) :
    Reference.moveStep s op.toNat =
        Reference.moveRest s op.toNat (regField m).toNat (rmOperand s.config (parseModRm m disp).rm)
          (s.cursor + 1 + 1 + dispSize m) ∧
      s.stream.bytesFrom (s.cursor + 1 + 1 + dispSize m) = rest := by
  obtain ⟨hlt, hm, htail⟩ := bytesFrom_eq_cons hstream
  have hlen := congrArg List.length htail
  rw [bytesFrom_length, List.length_append] at hlen
  refine ⟨?_, hdisp ▸ bytesFrom_eq_append htail⟩
  rw [Reference.moveStep_of_modrm hreads hlt hm, if_pos (by omega), htail, ← hdisp, List.take_left]

/-- A data movement, by the form that its operands have in the stream. -/
theorem shows_moveStep {s : State} {op : Byte} {o : MovOperands} {rest : List Byte}
    (h : o.ReadFrom s.config.immregModrm op rest) (hstream : s.stream.bytesFrom (s.cursor + 1) = rest) :
    Shows (moveStep op o s) s (Reference.moveStep s op.toNat) := by
  have hlen := congrArg List.length hstream
  rw [bytesFrom_length] at hlen
  cases h with
  | noImm hskip =>
    rw [List.length_nil] at hlen
    rw [Reference.moveStep_of_skip hskip, if_neg (by omega)]
    exact shows_raiseTruncated s .imm
  | imm hskip =>
    obtain ⟨hlt, hcell, -⟩ := bytesFrom_eq_cons hstream
    rw [Reference.moveStep_of_skip hskip, if_pos (by omega), hcell]
    exact shows_printMov s _ _ rfl
  | noModRm hreads =>
    rw [List.length_nil] at hlen
    rw [Reference.moveStep_of_missing_modrm hreads (by omega)]
    exact shows_raiseTruncated s .modrm
  | shortDisp hreads hshort =>
    obtain ⟨hlt, hm, -⟩ := bytesFrom_eq_cons hstream
    rw [List.length_cons] at hlen
    rw [Reference.moveStep_of_modrm hreads hlt hm, if_neg (by omega)]
    exact shows_raiseTruncated s .disp
  | modrm hreads himm hdisp =>
    obtain ⟨hmove, -⟩ := Reference.moveStep_of_disp hreads hstream hdisp
    rw [hmove, Reference.moveRest_of_no_imm _ _ himm, ← rmDispSize_parseModRm hdisp]
    exact shows_printMov s _ _ (by omega)
  | modrmNoImm hreads himm hdisp =>
    rw [← List.append_nil (_ :: _)] at hstream
    obtain ⟨hmove, hend⟩ := Reference.moveStep_of_disp hreads hstream hdisp
    have hp := congrArg List.length hend
    rw [bytesFrom_length, List.length_nil] at hp
    rw [hmove, Reference.moveRest_of_missing_imm _ _ himm (by omega)]
    exact shows_raiseTruncated s .imm
  | modrmImm hreads himm hdisp =>
    obtain ⟨hmove, himms⟩ := Reference.moveStep_of_disp hreads hstream hdisp
    obtain ⟨hp, hcell, -⟩ := bytesFrom_eq_cons himms
    rw [hmove]
    by_cases hreg : isImmReg op = true
    · rw [Reference.moveRest_of_immReg _ _ hreg hp, hcell, ← rmDispSize_parseModRm hdisp, moveStep, if_pos hreg]
      exact shows_printMov s _ _ (by omega)
    · rw [Reference.moveRest_of_immMem _ _ hreg (himm.resolve_left hreg) hp, hcell, ← rmDispSize_parseModRm hdisp,
        moveStep, if_neg hreg]
      exact shows_printMov s _ _ (by omega)

/-! ### The step -/

/-- Settles O1: without a byte the step halts, with one it runs the shared step of the byte's class. -/
theorem stepFollowsThePseudocode : Obligations.StepFollowsThePseudocode := by
  unfold Obligations.StepFollowsThePseudocode
  intro s hf
  show Shows (step s) s (Reference.step s)
  by_cases hlt : s.cursor + 1 ≤ s.stream.length
  · have hready : s.Ready := ⟨hf, hlt⟩
    simp only [Reference.step, if_neg (not_not.2 hlt)]
    by_cases hs : s.stream.cell s.cursor = s.config.sentinel
    · rw [if_pos hs, step_of_sentinel hready (hs ▸ classify_sentinel s.config)]
      exact shows_skipStep s
    · rw [if_neg hs]
      cases hfixed : s.config.fixedTable.lookup (s.stream.cell s.cursor) with
      | some mn =>
        cases hw : s.config.jumpWidth.lookup (s.stream.cell s.cursor) with
        | some w =>
          rw [step_of_jump hready (classify_of_jumpWidth hs hfixed hw)]
          exact shows_jumpStep hlt hfixed w
        | none =>
          rw [step_of_fixed hready (classify_of_fixedTable hs hfixed hw)]
          exact shows_fixedStep hfixed
      | none =>
        by_cases hm : s.stream.cell s.cursor ∈ s.config.movSet
        · simp only [if_pos hm]
          rw [step_of_dataMovement hready (classify_of_movSet hs hfixed hm)]
          exact shows_moveStep (parseMov_readFrom _ _ _) rfl
        · simp only [if_neg hm]
          rw [step_of_unrecognized hready (classify_of_no_table hs hfixed hm)]
          exact shows_skipStep s
  · rw [step_exhausted hf (by omega), Reference.step, if_pos hlt]
    exact ⟨_, rfl, rfl, rfl, rfl⟩

end Sys2Proof.Machine
end

section
/-! The fixed-operand opcodes (41_fixed_operand.md rules R100 to R129): each is a row of the table, so the rule of the
family, proved once, is the rule of each. -/

namespace Sys2Proof.Machine

open Sys2Proof.Claims

theorem decode_of_fixedOpcode {cfg : Configuration} {op : Byte} (h : isFixedOpcode cfg op = true) (rest : List Byte) :
    decode cfg (op :: rest) = .ok (fixedInstr op) := by
  obtain ⟨mn, -, hclass⟩ := classify_fixed h
  rw [decode, decodeOpcode, hclass]

/-- The rule of the family (41_fixed_operand.md rule R129), for every opcode that is fixed by default. -/
theorem fixedRule_fixedInstr {op : Byte} {mn : String} (hmn : defaultConfiguration.fixedTable.lookup op = some mn)
    (hop : isFixedOpcode defaultConfiguration op = true) : FixedRule op mn (fixedInstr op) := by
  refine ⟨hmn, hop, fun cfg rest h => decode_of_fixedOpcode h rest, fun s m hm => ?_⟩
  rw [exec_fixedInstr]
  exact prints_fixedStep hm

/-- Settles O14: each opcode is a row of the table, with the rule of the family. -/
theorem flagInstructionsPrintTheirMnemonic : Obligations.FlagInstructionsPrintTheirMnemonic := by
  unfold Obligations.FlagInstructionsPrintTheirMnemonic
  refine ⟨?pushf, ?popf, ?sahf, ?lahf, ?cmc, ?clc, ?stc, ?cli, ?sti, ?cld, ?std⟩ <;> exact fixedRule_fixedInstr rfl rfl

/-- Settles O15: each opcode is a row of the table, with the rule of the family. -/
theorem stringInstructionsPrintTheirMnemonic : Obligations.StringInstructionsPrintTheirMnemonic := by
  unfold Obligations.StringInstructionsPrintTheirMnemonic
  refine ⟨?movsb, ?movsw, ?cmpsb, ?cmpsw, ?stosb, ?stosw, ?lodsb, ?lodsw, ?scasb, ?scasw⟩ <;>
    exact fixedRule_fixedInstr rfl rfl

/-- Settles O16: the rule of the family, whose frame keeps the mode and the cause (60_exceptions.md rule R228). -/
theorem interruptPrefixAndHaltOpcodesPrintTheirMnemonic :
    Obligations.InterruptPrefixAndHaltOpcodesPrintTheirMnemonic := by
  unfold Obligations.InterruptPrefixAndHaltOpcodesPrintTheirMnemonic
  refine ⟨?int3, ?into, ?iret, ?lock, ?repne, ?rep, ?hlt⟩ <;> exact fixedRule_fixedInstr rfl rfl

end Sys2Proof.Machine
end

section
/-! The data movements (42_data_movement.md rules R140 to R171): each opcode is a row of the table, so the rule of its
family, proved once for every opcode of the family, is the rule of each. -/

namespace Sys2Proof.Machine

open Sys2Proof.Claims

/-! ### What the instruction of an opcode decodes from and does, for every row -/

section
variable {cfg : Configuration} {op : Byte} (hmov : isMovOpcode cfg op = true)
  (hreads : readsModRm cfg.immregModrm op = true)
include hmov hreads

theorem truncatedModRm_movInstr : TruncatedModRm cfg op (movInstr op) := by
  refine ⟨?_, fun m more hshort => ?_⟩
  · rw [decode_of_movOpcode hmov, parseMov, if_neg (readsModRm_iff.1 hreads)]
  · rw [decode_of_movOpcode hmov, parseMov_truncatedDisp hreads hshort]

/-- An opcode that takes a ModRM operand and an immediate, complete and at each truncation point
(42_data_movement.md rule R174). -/
theorem decode_modrmImm_and_truncations (himm : isImmReg op = true ∨ isImmMem op = true) :
    (∀ m b rest, m.rm.wellFormed = true →
      decode cfg (op :: (m.bytes ++ b :: rest)) = .ok (movInstr op (.modrmImm m b))) ∧
    TruncatedModRm cfg op (movInstr op) ∧
    ∀ m more, more.length = dispSize m →
      decode cfg (op :: m :: more) = .ok (movInstr op (.truncated .imm (m :: more))) := by
  refine ⟨fun m b rest hm => ?_, truncatedModRm_movInstr hmov hreads, fun m more hlen => ?_⟩
  · rw [decode_of_movOpcode hmov, parseMov_modrmImm hreads hm himm]
  · rw [decode_of_movOpcode hmov, parseMov_truncatedImm hreads himm hlen]

end

theorem truncates_movInstr (op : Byte) (s : State) (kind : TruncKind) (present : List Byte) :
    Truncates (exec (movInstr op (.truncated kind present)) s) s (causeOf kind) := by
  rw [exec_movInstr]
  exact truncates_raiseTruncated s kind

/-! ### The rules of the two families with an immediate -/

/-- The immediate is appended to the RM operand (42_data_movement.md rules R154, R155). -/
theorem movImRule_movInstr {op : Byte} (hmem : isImmMem op = true) (hreg : ¬isImmReg op = true) :
    MovImRule op (movInstr op) := by
  have hreads (mode : ImmregModrm) : readsModRm mode op = true := readsModRm_iff.2 fun h => hreg h.1
  refine ⟨fun cfg hmov => decode_modrmImm_and_truncations hmov (hreads _) (.inr hmem),
    fun s => ⟨fun m b => ?_, truncates_movInstr op s⟩⟩
  rw [exec_movInstr, moveStep, if_neg hreg,
    show s.cursor + 3 + rmDispSize m.rm = s.cursor + 1 + (1 + rmDispSize m.rm + 1) by omega]
  exact prints_printMov s (regOperand_resolved m.reg) _ _

/-- The opcode's low three bits name the register, and the immediate replaces the RM operand, in both modes of
IMMREG_MODRM (42_data_movement.md rule R147). -/
theorem movIrRule_movInstr {op : Byte} {name : String} (hreg : isImmReg op = true)
    (hname : registerTable[(rmField op).toNat]? = some name) : MovIrRule op name (movInstr op) := by
  have hprints (s : State) (b : BitVec 8) (n : Nat) :
      Prints (.next (printMov (regOperand (rmField op).toNat) (immOperand b) n s)) s (s.cursor + 1 + n)
        (movLine s name (hex2 b.toNat)) := by
    rw [← regName_eq_of_getElem? s.config hname]
    exact prints_printMov s (regOperand_resolved _) _ n
  refine ⟨fun cfg hmov hskip => ?skip, fun cfg hmov hconsume => ?consume,
    fun s => ⟨fun b => ?imm, fun m b => ?modrmImm, truncates_movInstr op s⟩⟩
  case skip =>
    have hreads : readsModRm cfg.immregModrm op = false := by simp [readsModRm, hreg, hskip]
    refine ⟨fun b rest => ?_, ?_⟩
    · rw [decode_of_movOpcode hmov, parseMov_of_not_readsModRm hreads]
    · rw [decode_of_movOpcode hmov, parseMov, if_pos ⟨hreg, hskip⟩]
  case consume =>
    have hreads : readsModRm cfg.immregModrm op = true := by simp [readsModRm, hconsume]
    exact decode_modrmImm_and_truncations hmov hreads (.inl hreg)
  case imm =>
    rw [exec_movInstr]
    exact hprints s b 1
  case modrmImm =>
    rw [exec_movInstr, moveStep, if_pos hreg,
      show s.cursor + 3 + rmDispSize m.rm = s.cursor + 1 + (1 + rmDispSize m.rm + 1) by omega]
    exact hprints s b _

/-! ### The rows -/

/-- Settles O25: each opcode is a row of the table that takes no immediate. -/
theorem registerMemoryMovesPrintRegThenRm : Obligations.RegisterMemoryMovesPrintRegThenRm := by
  unfold Obligations.RegisterMemoryMovesPrintRegThenRm
  refine ⟨?mov88, ?mov89, ?mov8A, ?mov8B, rfl, rfl, rfl, rfl⟩ <;> exact movRmRule_movInstr (by decide)

/-- Settles O26: each opcode is a row of the table that takes an immediate to memory. -/
theorem immediateToMemoryMovesAppendTheImmediate : Obligations.ImmediateToMemoryMovesAppendTheImmediate := by
  unfold Obligations.ImmediateToMemoryMovesAppendTheImmediate
  refine ⟨?movC6, ?movC7, rfl, rfl⟩ <;> exact movImRule_movInstr (by decide) (by decide)

/-- Settles O27: each opcode is a row of the table that takes an immediate to the register of its low three bits. -/
theorem immediateToByteRegisterMoves : Obligations.ImmediateToByteRegisterMoves := by
  unfold Obligations.ImmediateToByteRegisterMoves
  refine ⟨?movB0, ?movB1, ?movB2, ?movB3, ?movB4, ?movB5, ?movB6, ?movB7, by decide⟩ <;>
    exact movIrRule_movInstr rfl rfl

/-- Settles O28: the rule of the byte registers again, so the immediate is one byte here too. -/
theorem immediateToWordRegisterMoves : Obligations.ImmediateToWordRegisterMoves := by
  unfold Obligations.ImmediateToWordRegisterMoves
  refine ⟨?movB8, ?movB9, ?movBA, ?movBB, ?movBC, ?movBD, ?movBE, ?movBF, by decide⟩ <;>
    exact movIrRule_movInstr rfl rfl

/-! ### The suppression of a Line (42_data_movement.md rule R149) -/

theorem movRecords_unresolved (cfg : Configuration) (i : Nat) : movRecords cfg i .unresolved .unresolved = [] :=
  if_pos ⟨rfl, rfl⟩

/-- The first operand of a complete data movement is a register of a three-bit field, whichever the form. -/
theorem moveStep_complete (op : Byte) {o : MovOperands} (h : o.complete = true) (s : State) :
    ∃ (r : BitVec 3) (op2 : Operand),
      moveStep op o s = .next (printMov (regOperand r.toNat) op2 o.encoding.length s) := by
  cases o with
  | modrm m => exact ⟨m.reg, rmOperand s.config m.rm, by rw [moveStep, MovOperands.encoding, modRm_bytes_length]⟩
  | modrmImm m b =>
    rw [moveStep, MovOperands.encoding, List.length_append, modRm_bytes_length]
    by_cases hreg : isImmReg op = true
    · rw [if_pos hreg]
      exact ⟨rmField op, _, rfl⟩
    · rw [if_neg hreg]
      exact ⟨m.reg, _, rfl⟩
  | imm b => exact ⟨rmField op, _, rfl⟩
  | truncated => simp [MovOperands.complete] at h

/-- A row of the table is the instruction of its opcode. -/
theorem movInstr_of_mem_movRows {row : Byte × (MovOperands → Instr)} (h : row ∈ movRows) :
    movInstr row.1 = row.2 := by
  revert row
  simp only [movRows, List.forall_mem_append, List.forall_mem_cons, List.not_mem_nil, false_imp_iff, implies_true,
    and_true]
  and_intros <;> rfl

/-- Settles O32: the marker suppresses the Line only as both operands, and the first operand is a register. -/
theorem moveLinesAreNotSuppressed : Obligations.MoveLinesAreNotSuppressed := by
  unfold Obligations.MoveLinesAreNotSuppressed
  refine ⟨fun s n => ?_, fun s row o hrow hcomplete => ?_⟩
  · rw [printMov, movRecords_unresolved]
    exact prints_finish s [] _
  · have hexec : exec (row.2 o) s = moveStep row.1 o s := by
      obtain hrow | ⟨op, rfl⟩ := hrow
      · rw [← movInstr_of_mem_movRows hrow, exec_movInstr]
      · rfl
    obtain ⟨r, op2, hmove⟩ := moveStep_complete row.1 hcomplete s
    rw [hexec, hmove]
    exact ⟨_, _, prints_printMov s (regOperand_resolved r) op2 _⟩

end Sys2Proof.Machine
end

section
/-! The jump family (43_jump.md rules R180 to R188, R190 to R205, R213 to R215): what the jump step prints for a complete
and for a short offset field, the field read from the stream, and the range of the target. -/

namespace Sys2Proof.Machine

open Sys2Proof.Claims

/-! ### The jump step -/

/-- A soft-fail prints the start of the jump (43_jump.md rule R182). -/
theorem jumpTarget_short (i : Nat) {f : JumpField} (h : f.complete = false) : jumpTarget i f = i := by
  cases f with
  | short => rfl
  | rel8 | rel16 | far64 => simp [JumpField.complete] at h

/-- Whatever the field, one Line with the target, and its frame (43_jump.md rule R180). -/
theorem prints_jumpStep {s : State} {op : Byte} {mn : String} {f : JumpField} {p : Nat} {target : Int}
    (h : s.config.fixedTable.lookup op = some mn) (hp : jumpNext s.cursor s.stream.length f = p)
    (htarget : jumpTarget s.cursor f = target) :
    Prints (jumpStep op f s) s p [.line s.cursor (mn ++ " " ++ shex target) none] := by
  subst hp htarget
  rw [jumpStep, h]
  exact prints_finish s _ _

section
variable {s : State} {op : Byte} {mn : String} {f : JumpField} (h : s.config.fixedTable.lookup op = some mn)
include h

theorem prints_jumpStep_complete (hc : f.complete = true) :
    Prints (jumpStep op f s) s (s.cursor + 1 + f.width.bytes)
      [.line s.cursor (mn ++ " " ++ shex (s.cursor + 1 + f.width.bytes +
        Reference.offset f.width.bytes (leNat f.encoding))) none] :=
  prints_jumpStep h (jumpNext_complete _ _ hc) (jumpTarget_complete _ hc)

theorem prints_jumpStep_short (hc : f.complete = false) :
    Prints (jumpStep op f s) s s.stream.length [.line s.cursor (mn ++ " " ++ shex s.cursor) none] :=
  prints_jumpStep h (jumpNext_short _ _ hc) (jumpTarget_short _ hc)

end

/-! ### Every constructor, at every width -/

/-- A row of the table is the instruction of its opcode. -/
theorem jumpInstr_of_mem_jumpRows {row : Byte × (JumpField → Instr)} (h : row ∈ jumpRows) :
    jumpInstr row.1 = row.2 := by
  revert row
  simp only [jumpRows, List.forall_mem_append, List.forall_mem_cons, List.not_mem_nil, false_imp_iff, implies_true,
    and_true]
  and_intros <;> rfl

/-- Settles O21: a row or an added opcode, the instruction runs the jump step of its opcode. -/
theorem everyJumpConstructorAtEveryWidth : Obligations.EveryJumpConstructorAtEveryWidth := by
  unfold Obligations.EveryJumpConstructorAtEveryWidth
  intro row hrow s m f hm
  have hexec : exec (row.2 f) s = jumpStep row.1 f s := by
    obtain hrow | ⟨op, rfl⟩ := hrow
    · rw [← jumpInstr_of_mem_jumpRows hrow, exec_jumpInstr]
    · rfl
  rw [hexec]
  exact ⟨prints_jumpStep_complete hm, prints_jumpStep_short hm⟩

/-! ### The field in the stream -/

/-- Settles O22: what follows the opcode is parsed as a complete field where it fits, and as a short one where not. -/
theorem jumpStepReadsItsFieldFromTheStream : Obligations.JumpStepReadsItsFieldFromTheStream := by
  unfold Obligations.JumpStepReadsItsFieldFromTheStream
  intro s op mn w hready hbyte hs hf hw
  obtain ⟨hlt, rfl⟩ := byteAt_eq_some_iff.1 hbyte
  have hrest := bytesFrom_length s.stream (s.cursor + 1)
  rw [step_of_jump hready (classify_of_jumpWidth hs hf hw)]
  refine ⟨fun hfits => ?complete, fun hcut => ?short⟩
  case complete =>
    obtain ⟨hcomplete, hwidth, henc⟩ := parseJump_complete (w := w) (rest := s.stream.bytesFrom (s.cursor + 1)) (by omega)
    have hprints := prints_jumpStep_complete hf hcomplete
    rw [hwidth, henc, leNat_take_bytesFrom hfits, add_right_comm (s.cursor : Int)] at hprints
    exact hprints
  case short =>
    have hshort : (s.stream.bytesFrom (s.cursor + 1)).length < w.bytes := by omega
    rw [parseJump_short hshort]
    exact prints_jumpStep_short hf rfl

/-- Settles O23: the soft-fail leaves the block scanning with the cursor at N, where a step halts on exhaustion. -/
theorem jumpShortfallEndsTheRunExhausted : Obligations.JumpShortfallEndsTheRunExhausted := by
  unfold Obligations.JumpShortfallEndsTheRunExhausted
  intro s op mn w hready hbyte hs hf hw hcut
  have hprints := (jumpStepReadsItsFieldFromTheStream s op mn w hready hbyte hs hf hw).2 hcut
  refine ⟨hprints, ?_⟩
  obtain ⟨t, hstep, hcursor, hout, hfsm, -, -, hstream, -⟩ := hprints
  have hend : step t = .next t.haltExhausted :=
    step_exhausted (hfsm.trans hready.1) (by rw [hcursor, hstream])
  exact ⟨t.haltExhausted, by rw [run_of_step hstep, run_of_step hend]; rfl, rfl, rfl, hcursor, hout⟩

/-! ### What a jump opcode decodes to -/

theorem decode_of_jumpOpcode {cfg : Configuration} {op : Byte} {w : JumpWidth} (h : isJumpOpcode cfg op w = true)
    (rest : List Byte) : decode cfg (op :: rest) = .ok (jumpInstr op (parseJump w rest)) := by
  obtain ⟨mn, -, hclass⟩ := classify_jump h
  rw [decode, decodeOpcode, hclass]

theorem decode_of_jumpOpcode_short {cfg : Configuration} {op : Byte} {w : JumpWidth}
    (h : isJumpOpcode cfg op w = true) {present : List Byte} (hshort : present.length < w.bytes) :
    decode cfg (op :: present) = .ok (jumpInstr op (.short w present)) := by
  rw [decode_of_jumpOpcode h, parseJump_short hshort]

/-- The low byte comes first (20_memory.md rule R44). -/
theorem leBytes_toNat_append {n : Nat} (w : Nat) (hi : BitVec n) (lo : Byte) :
    leBytes (w + 1) (hi ++ lo).toNat = lo :: leBytes w hi.toNat := by
  have hlo := lo.isLt
  have happend : (hi ++ lo).toNat = hi.toNat * 256 + lo.toNat := by
    rw [BitVec.toNat_append, ← Nat.shiftLeft_add_eq_or_of_lt hlo, Nat.shiftLeft_eq]
  have hdiv : (hi.toNat * 256 + lo.toNat) / 256 = hi.toNat := by omega
  have hmod : BitVec.ofNat 8 (hi.toNat * 256 + lo.toNat) = lo := BitVec.eq_of_toNat_eq (by simp; omega)
  rw [leBytes, happend, hdiv, hmod]

theorem leBytes_one (b : Byte) : leBytes 1 b.toNat = [b] := by simp [leBytes]

theorem parseJump_one (b : Byte) (rest : List Byte) : parseJump .one (b :: rest) = .rel8 b :=
  parseJump_encoding (f := .rel8 b) rfl (.inl rfl)

theorem parseJump_two (lo hi : Byte) (rest : List Byte) : parseJump .two (lo :: hi :: rest) = .rel16 (hi ++ lo) := by
  have hread := parseJump_encoding (f := .rel16 (hi ++ lo)) (rest := rest) rfl (.inl rfl)
  simp only [JumpField.encoding, leBytes_toNat_append, leBytes_one] at hread
  exact hread

theorem parseJump_eight (f0 f1 f2 f3 f4 f5 f6 f7 : Byte) (rest : List Byte) :
    parseJump .eight (f0 :: f1 :: f2 :: f3 :: f4 :: f5 :: f6 :: f7 :: rest) =
      .far64 (f7 ++ f6 ++ f5 ++ f4 ++ f3 ++ f2 ++ f1 ++ f0) := by
  have hread := parseJump_encoding (f := .far64 (f7 ++ f6 ++ f5 ++ f4 ++ f3 ++ f2 ++ f1 ++ f0)) (rest := rest) rfl
    (.inl rfl)
  simp only [JumpField.encoding, leBytes_toNat_append, leBytes_one] at hread
  exact hread

/-! ### The target of each width (43_jump.md rules R181, R183) -/

theorem jumpTarget_rel8 (i : Nat) (b : BitVec 8) : jumpTarget i (.rel8 b) = i + 2 + Reference.offset 1 b.toNat := by
  rw [← sext8_eq_offset]
  exact congrArg (· + sext8 b) (add_assoc (i : Int) 1 1)

theorem jumpTarget_rel16 (i : Nat) (h : BitVec 16) :
    jumpTarget i (.rel16 h) = i + 3 + Reference.offset 2 h.toNat := by
  rw [← sext16_eq_offset]
  exact congrArg (· + sext16 h) (add_assoc (i : Int) 1 2)

theorem jumpTarget_far64 (i : Nat) (q : BitVec 64) : jumpTarget i (.far64 q) = i + 9 + q.toNat :=
  congrArg (· + (q.toNat : Int)) (add_assoc (i : Int) 1 8)

theorem sext8_bounds (b : BitVec 8) : -128 ≤ sext8 b ∧ sext8 b ≤ 127 := by
  have hb := b.isLt
  unfold sext8
  split <;> omega

theorem sext16_bounds (h : BitVec 16) : -32768 ≤ sext16 h ∧ sext16 h ≤ 32767 := by
  have hh := h.isLt
  unfold sext16
  split <;> omega

/-- Settles O24: the target is past the field by the offset, whose range is that of its width. -/
theorem jumpTargetRanges : Obligations.JumpTargetRanges := by
  unfold Obligations.JumpTargetRanges
  refine fun i => ⟨fun b => ⟨rfl, ?rel8⟩, fun h => ⟨rfl, ?rel16⟩, fun q => ⟨rfl, ?far64⟩, ?bounds⟩
  case rel8 =>
    have hb := sext8_bounds b
    rw [jumpTarget_rel8, ← sext8_eq_offset]
    omega
  case rel16 =>
    have hh := sext16_bounds h
    rw [jumpTarget_rel16, ← sext16_eq_offset]
    omega
  case far64 =>
    have hq := q.isLt
    rw [jumpTarget_far64]
    omega
  case bounds =>
    simp only [jumpTarget_rel8, jumpTarget_rel16, jumpTarget_far64]
    and_intros <;> simp [Reference.offset] <;> omega

/-! ### The rows -/

/-- The rule of the family at width 1 (43_jump.md rules R181, R182, R186), for every opcode that is such a jump by
default. -/
theorem shortJumpRule_jumpInstr {op : Byte} {mn : String} (hmn : defaultConfiguration.fixedTable.lookup op = some mn)
    (hop : isJumpOpcode defaultConfiguration op .one = true) : ShortJumpRule op mn (jumpInstr op) := by
  refine ⟨hmn, hop, fun cfg h => ⟨fun b rest => ?_, decode_of_jumpOpcode_short h Nat.one_pos⟩,
    fun s m hm => ⟨fun b => ?_, ?_⟩⟩
  · rw [decode_of_jumpOpcode h, parseJump_one]
  · rw [exec_jumpInstr]
    exact prints_jumpStep hm rfl (jumpTarget_rel8 _ _)
  · rw [exec_jumpInstr]
    exact prints_jumpStep_short hm rfl

/-- Settles O18: each opcode is a row of the table, with the rule of the family at width 1. -/
theorem conditionalJumpsOverflowToAbove : Obligations.ConditionalJumpsOverflowToAbove := by
  unfold Obligations.ConditionalJumpsOverflowToAbove
  refine ⟨?jo, ?jno, ?jb, ?jae, ?je, ?jne, ?jbe, ?ja⟩ <;> exact shortJumpRule_jumpInstr rfl rfl

/-- Settles O19: each opcode is a row of the table, with the rule of the family at width 1. -/
theorem conditionalJumpsSignToGreater : Obligations.ConditionalJumpsSignToGreater := by
  unfold Obligations.ConditionalJumpsSignToGreater
  refine ⟨?js, ?jns, ?jp, ?jnp, ?jl, ?jge, ?jle, ?jg⟩ <;> exact shortJumpRule_jumpInstr rfl rfl

/-- Settles O20: JMP SHORT has the rule of the family at width 1, JMP and JMP FAR read and print the same way at widths 2
and 8. -/
theorem unconditionalJumpsPrintTheirTarget : Obligations.UnconditionalJumpsPrintTheirTarget := by
  unfold Obligations.UnconditionalJumpsPrintTheirTarget
  refine ⟨shortJumpRule_jumpInstr rfl rfl, ⟨rfl, rfl, fun cfg h => ?jmpDecodes, fun s m hm => ?jmpPrints⟩,
    ⟨rfl, rfl, fun cfg h => ?jmpFarDecodes, fun s m hm => ?jmpFarPrints⟩⟩
  case jmpDecodes =>
    refine ⟨fun lo hi rest => ?_, fun present => decode_of_jumpOpcode_short h⟩
    rw [decode_of_jumpOpcode h, parseJump_two]
    rfl
  case jmpPrints =>
    exact ⟨fun b => prints_jumpStep (op := 0xE9) hm rfl (jumpTarget_rel16 _ b),
      fun present => prints_jumpStep_short (op := 0xE9) hm rfl⟩
  case jmpFarDecodes =>
    refine ⟨fun f0 f1 f2 f3 f4 f5 f6 f7 rest => ?_, fun present => decode_of_jumpOpcode_short h⟩
    rw [decode_of_jumpOpcode h, parseJump_eight]
    rfl
  case jmpFarPrints =>
    exact ⟨fun q => prints_jumpStep (op := 0xEA) hm rfl (jumpTarget_far64 _ q),
      fun present => prints_jumpStep_short (op := 0xEA) hm rfl⟩

end Sys2Proof.Machine
end

section
/-! Exceptions (60_exceptions.md rules R220 to R228): the truncation, the one exception of the block, is raised by a data
movement alone, at the first of its fields that the stream ends before or inside; HALTED has no step. -/

namespace Sys2Proof.Machine

open Sys2Proof.Claims

/-! ### HALTED, and the truncation operation -/

/-- Settles O43: the control state alone decides. -/
theorem haltedHasNoStep : Obligations.HaltedHasNoStep := by
  unfold Obligations.HaltedHasNoStep
  intro s hf
  rw [step, hf]

/-- Settles O34. -/
theorem truncationHaltsAtTheStart : Obligations.TruncationHaltsAtTheStart := truncates_raiseTruncated

/-! ### The first missing field of a data movement (60_exceptions.md rule R222) -/

/-- Taken as a data movement, the bytes at the cursor have every field before this one, and the stream ends before this
one does. -/
def State.Lacks (s : State) (kind : TruncKind) : Prop :=
  let op := s.stream.cell s.cursor
  let reads := readsModRm s.config.immregModrm op = true
  let operandEnd := s.cursor + 2 + dispSize (s.stream.cell (s.cursor + 1))
  match kind with
  | .modrm => reads ∧ s.stream.length < s.cursor + 2
  | .disp => reads ∧ s.cursor + 2 ≤ s.stream.length ∧ s.stream.length < operandEnd
  | .imm =>
    (isImmReg op = true ∨ isImmMem op = true) ∧
      ((reads ∧ operandEnd ≤ s.stream.length ∧ s.stream.length < operandEnd + 1) ∨
        (¬reads ∧ s.stream.length < s.cursor + 2))

/-- At most one field is the first one missing: what one lacks is there where a later one is lacked. -/
theorem State.Lacks.unique {s : State} {k k' : TruncKind} (h : s.Lacks k) (h' : s.Lacks k') : k = k' := by
  cases k <;> cases k' <;> grind [State.Lacks]

section
variable {s : State} {o : MovOperands}
  (h : o.ReadFrom s.config.immregModrm (s.stream.cell s.cursor) (s.stream.bytesFrom (s.cursor + 1)))
include h

/-- Operands are truncated at a field that the stream lacks: what was read tells where the stream ends. -/
theorem lacks_of_readFrom_truncated {kind : TruncKind} {present : List Byte} (ho : o = .truncated kind present) :
    s.Lacks kind := by
  have hlen := bytesFrom_length s.stream (s.cursor + 1)
  generalize hrest : s.stream.bytesFrom (s.cursor + 1) = rest at h hlen
  cases h with
  | noImm hskip =>
    cases ho
    have himm : isImmReg (s.stream.cell s.cursor) = true ∧ s.config.immregModrm = .skip := by
      simpa [readsModRm] using hskip
    rw [List.length_nil] at hlen
    exact ⟨.inl himm.1, .inr ⟨by simp [hskip], by omega⟩⟩
  | noModRm hreads =>
    cases ho
    rw [List.length_nil] at hlen
    exact ⟨hreads, by omega⟩
  | shortDisp hreads hshort =>
    cases ho
    obtain ⟨hmodrm, rfl, -⟩ := bytesFrom_eq_cons hrest
    rw [List.length_cons] at hlen
    exact ⟨hreads, hmodrm, by omega⟩
  | modrmNoImm hreads himm hdisp =>
    cases ho
    obtain ⟨hmodrm, rfl, -⟩ := bytesFrom_eq_cons hrest
    rw [List.length_cons] at hlen
    exact ⟨himm, .inl ⟨hreads, by omega, by omega⟩⟩
  | imm | modrm | modrmImm => cases ho

/-- Where complete operands were read, the stream lacks none of their fields. -/
theorem not_lacks_of_readFrom_complete (hc : o.complete = true) (kind : TruncKind) : ¬s.Lacks kind := by
  have hlen := bytesFrom_length s.stream (s.cursor + 1)
  generalize hrest : s.stream.bytesFrom (s.cursor + 1) = rest at h hlen
  cases h with
  | imm hskip =>
    rw [List.length_cons] at hlen
    cases kind <;> grind [State.Lacks]
  | modrm hreads himm hdisp =>
    obtain ⟨-, rfl, -⟩ := bytesFrom_eq_cons hrest
    rw [List.length_append, List.length_cons] at hlen
    cases kind <;> grind [State.Lacks]
  | modrmImm hreads himm hdisp =>
    obtain ⟨-, rfl, -⟩ := bytesFrom_eq_cons hrest
    rw [List.length_append, List.length_cons, List.length_cons] at hlen
    cases kind <;> grind [State.Lacks]
  | noImm | noModRm | shortDisp | modrmNoImm => simp [MovOperands.complete] at hc

end

/-! ### The cause a step ends with -/

theorem isMovOpcode_of_classify {cfg : Configuration} {op : Byte} (h : classify cfg op = .dataMovement) :
    isMovOpcode cfg op = true := by
  by_cases hs : op = cfg.sentinel
  · simp [classify, hs] at h
  · cases hf : cfg.fixedTable.lookup op with
    | some mn => cases hw : cfg.jumpWidth.lookup op <;> simp [classify, hs, hf, hw] at h
    | none => by_cases hm : op ∈ cfg.movSet <;> simp [classify, isMovOpcode, hs, hf, hm] at h ⊢

theorem cause_of_prints {o : Host.Outcome State Fault Refusal} {s t : State} {p : Nat} {rs : List Record}
    (h : Prints o s p rs) (ho : o = .next t) : t.cause = s.cause := by
  obtain ⟨u, hu, -, -, -, hcause, -⟩ := h
  cases hu.symm.trans ho
  exact hcause

/-- An opcode of another class raises nothing (60_exceptions.md rules R220, R228). -/
theorem step_cause_of_not_mov {s t : State} (hready : s.Ready)
    (hmov : ¬isMovOpcode s.config (s.stream.cell s.cursor) = true) (h : step s = .next t) : t.cause = s.cause := by
  cases hclass : classify s.config (s.stream.cell s.cursor) with
  | sentinel => exact cause_of_prints (prints_skipStep s) (step_of_sentinel hready hclass ▸ h)
  | unrecognized => exact cause_of_prints (prints_skipStep s) (step_of_unrecognized hready hclass ▸ h)
  | fixed mn =>
    exact cause_of_prints (prints_fixedStep (lookup_of_classify (.inl hclass))) (step_of_fixed hready hclass ▸ h)
  | jump mn w =>
    exact cause_of_prints (prints_jumpStep (lookup_of_classify (.inr ⟨w, hclass⟩)) rfl rfl)
      (step_of_jump hready hclass ▸ h)
  | dataMovement => exact absurd (isMovOpcode_of_classify hclass) hmov

/-- A data movement raises the truncation of the field that the stream lacks, and nothing where it lacks none. -/
theorem step_of_movOpcode {s t : State} (hready : s.Ready)
    (hmov : isMovOpcode s.config (s.stream.cell s.cursor) = true) (h : step s = .next t) :
    (t.cause = s.cause ∧ ∀ kind, ¬s.Lacks kind) ∨ ∃ kind, s.Lacks kind ∧ t = s.raiseTruncated kind := by
  rw [step_of_dataMovement hready (classify_mov hmov)] at h
  have hread := parseMov_readFrom s.config.immregModrm (s.stream.cell s.cursor) (s.stream.bytesFrom (s.cursor + 1))
  generalize parseMov _ _ _ = o at h hread
  by_cases hc : o.complete = true
  · obtain ⟨op1, op2, hmove⟩ := movOperands_bytes (s.stream.cell s.cursor) o hc s
    cases hmove.symm.trans h
    exact .inl ⟨rfl, not_lacks_of_readFrom_complete hread hc⟩
  · cases o with
    | truncated kind present =>
      cases h
      exact .inr ⟨kind, lacks_of_readFrom_truncated hread rfl, rfl⟩
    | modrm | modrmImm | imm => exact absurd rfl hc

theorem truncCause_injective : Function.Injective truncCause := by
  intro k k' h
  cases k <;> cases k' <;> simp [truncCause] at h ⊢

theorem truncCause_ne_exhausted (kind : TruncKind) : truncCause kind ≠ .exhausted := by cases kind <;> decide

theorem truncCause_ne_none (kind : TruncKind) : truncCause kind ≠ .none := by cases kind <;> decide

/-- A step ends in a truncation exactly for a data movement, and the cause names the field that the stream lacks. -/
theorem step_cause_eq_truncCause_iff {s t : State} (hinv : s.Inv) (h : step s = .next t) (kind : TruncKind) :
    t.cause = truncCause kind ↔
      s.cursor < s.stream.length ∧ isMovOpcode s.config (s.stream.cell s.cursor) = true ∧ s.Lacks kind := by
  have hf := (step_cases h).1
  have hnone : s.cause ≠ truncCause kind := hinv.cause_of_scanning hf ▸ (truncCause_ne_none kind).symm
  by_cases hlt : s.cursor < s.stream.length
  · by_cases hmov : isMovOpcode s.config (s.stream.cell s.cursor) = true
    · simp only [hlt, hmov, true_and]
      obtain ⟨hcause, hnot⟩ | ⟨kind', hlacks, rfl⟩ := step_of_movOpcode ⟨hf, hlt⟩ hmov h
      · exact iff_of_false (hcause ▸ hnone) (hnot kind)
      · rw [raiseTruncated_cause, truncCause_injective.eq_iff]
        exact ⟨fun heq => heq ▸ hlacks, hlacks.unique⟩
    · rw [step_cause_of_not_mov ⟨hf, hlt⟩ hmov h]
      exact iff_of_false hnone fun hr => hmov hr.2.1
  · cases (step_exhausted hf (not_lt.1 hlt)).symm.trans h
    exact iff_of_false (truncCause_ne_exhausted kind).symm fun hr => hlt hr.1

/-- A step ends in exhaustion exactly at the end of the stream (60_exceptions.md rule R224). -/
theorem step_cause_eq_exhausted_iff {s t : State} (hinv : s.Inv) (h : step s = .next t) :
    t.cause = .exhausted ↔ s.cursor = s.stream.length := by
  cases stepResult_of_step h with
  | exhausted hend => exact iff_of_true rfl (hinv.cursor_le.antisymm hend)
  | movedOn rs p hrs hlt hle =>
    have hnone := hinv.cause_of_scanning (step_cases h).1
    exact iff_of_false (by simp [hnone]) (by omega)
  | truncated kind hlt => exact iff_of_false (truncCause_ne_exhausted kind) hlt.ne

/-- Settles O33: the cause by the two lemmas above, the cursor and the records by the three ways a step can end. -/
theorem truncationNamesTheFirstMissingField : Obligations.TruncationNamesTheFirstMissingField := by
  unfold Obligations.TruncationNamesTheFirstMissingField
  refine ⟨rfl, fun s t hinv h => ?_⟩
  have hnone := hinv.cause_of_scanning (step_cases h).1
  refine ⟨step_cause_eq_exhausted_iff hinv h, step_cause_eq_truncCause_iff hinv h .modrm,
    step_cause_eq_truncCause_iff hinv h .disp, step_cause_eq_truncCause_iff hinv h .imm, fun hcause => ?cursor,
    fun htrunc => ?diagnostic⟩
  case cursor =>
    cases stepResult_of_step h with
    | exhausted | truncated => rfl
    | movedOn => exact absurd hnone hcause
  case diagnostic =>
    cases stepResult_of_step h with
    | exhausted => cases htrunc
    | movedOn => simp [hnone, Cause.isTruncation] at htrunc
    | truncated => rfl

/-- Settles O35: of the ways a step can end, only a truncation halts inside the stream. -/
theorem eventsAreRaisedByClassAlone : Obligations.EventsAreRaisedByClassAlone := by
  unfold Obligations.EventsAreRaisedByClassAlone
  intro s t hinv hlt h hhalt
  cases stepResult_of_step h with
  | exhausted hend => exact absurd hlt (not_lt.2 hend)
  | movedOn => simp [(step_cases h).1] at hhalt
  | truncated kind =>
    obtain ⟨-, hmov, -⟩ := (step_cause_eq_truncCause_iff hinv h kind).1 rfl
    exact ⟨hmov, truncCause_isTruncation kind⟩

end Sys2Proof.Machine
end

section
/-! Reset, and the end of a run from it (70_reset_and_hazards.md rules R240 to R246). -/

namespace Sys2Proof.Machine

/-! ### What a run keeps -/

/-- A run of more than no steps is its first step and the run from there. -/
theorem step_of_run_succ {M : Host.Core} {k : Nat} {s t : M.State} (h : M.run (k + 1) s = .next t) :
    ∃ u, M.step s = .next u ∧ M.run k u = .next t := by
  cases hstep : M.step s with
  | next u => exact ⟨u, rfl, by simpa only [Host.Core.run, hstep] using h⟩
  | fault | refused => simp [Host.Core.run, hstep] at h

/-- What every step keeps, every run keeps. -/
theorem run_keeps {M : Host.Core} {P : M.State → Prop} (hkeeps : ∀ s t, P s → M.step s = .next t → P t)
    {k : Nat} {s t : M.State} (hs : P s) (h : M.run k s = .next t) : P t := by
  induction k generalizing s with
  | zero =>
    cases h
    exact hs
  | succ k ih =>
    obtain ⟨u, hstep, hrun⟩ := step_of_run_succ h
    exact ih (hkeeps s u hs hstep) hrun

/-- A run never writes the stream (20_memory.md rule R40). -/
theorem run_stream {k : Nat} {s t : State} (h : Host.Core.run core k s = .next t) : t.stream = s.stream :=
  run_keeps (M := core) (P := fun u : State => u.stream = s.stream)
    (fun _ _ hu hstep => (step_descends hstep).1.trans hu) rfl h

/-! ### How a run ends -/

/-- A halted state was exhausted at N without a Diagnostic, or truncated inside the stream with one, last
(40_dispatch.md rule R96; 60_exceptions.md rules R221, R223). -/
theorem State.Inv.end_of_halted {t : State} (h : t.Inv) (hf : t.fsm = .halted) :
    (t.cause = .exhausted ∧ t.cursor = t.stream.length ∧ .diagnostic ∉ t.out) ∨
      (t.cause.isTruncation = true ∧ t.cursor < t.stream.length ∧
        ∃ lines, t.out = lines ++ [.diagnostic] ∧ .diagnostic ∉ lines) := by
  have hcause : t.cause ≠ .none := by simpa [hf] using h.halted_iff_cause
  by_cases htrunc : t.cause.isTruncation = true
  · exact .inr ⟨htrunc, h.truncated_inside htrunc, h.diagnostic_last htrunc⟩
  · have hexh : t.cause = .exhausted := by cases hc : t.cause <;> simp [hc, Cause.isTruncation] at hcause htrunc ⊢
    exact .inl ⟨hexh, h.exhausted_at_end hexh, h.no_diagnostic (Bool.eq_false_iff.2 htrunc)⟩

/-- Settles O4: the loaded reset state starts a run, which halts within N + 1 steps with the stream as loaded; the
invariant tells how it ended. -/
theorem runHaltsWithinStreamLengthPlusOne : Obligations.RunHaltsWithinStreamLengthPlusOne := by
  unfold Obligations.RunHaltsWithinStreamLengthPlusOne
  intro cfg bs
  have hstart : ({ State.reset with config := cfg }.loadStream bs).Inv := inv_of_start (ofBytes_wf bs) rfl rfl rfl rfl
  obtain ⟨k, t, hk, hrun, hhalt, hinv⟩ := run_halts hstart rfl (ofBytes_length bs)
  have hlen : t.stream.length = bs.length := (congrArg Memory.length (run_stream hrun)).trans (ofBytes_length bs)
  exact ⟨k, t, hk, hrun, hhalt, hlen ▸ hinv.end_of_halted hhalt⟩

/-- Settles O44: with no byte left, a step is the halt on exhaustion. -/
theorem exhaustionHaltsWithoutARecord : Obligations.ExhaustionHaltsWithoutARecord := by
  unfold Obligations.ExhaustionHaltsWithoutARecord
  constructor
  · intro s hf hend
    exact ⟨_, step_exhausted hf hend.ge, rfl, rfl, rfl, rfl, rfl, rfl⟩
  · exact ⟨_, step_exhausted rfl le_rfl, rfl, rfl, rfl⟩

/-! ### Reset -/

/-- Settles O48: the literal's fields, and what the reset input does to each field. -/
theorem resetValues : Obligations.ResetValues :=
  ⟨⟨rfl, rfl, rfl, rfl⟩, fun s => ⟨applyReset_cursor s, applyReset_fsm s, applyReset_cause s, applyReset_out s,
    applyReset_stream s, applyReset_config s⟩⟩

end Sys2Proof.Machine
end
